-- ==== Sys2Proof/Word.lean ====
section
/-! DEFINITION. The word types of the TAP container codec (`00_scope.md` R10, R12) and the greatest
32-bit value. Nothing in this block is signed (R13). -/

namespace Sys2Proof

/-- A register, operand or result: 32 bits, unsigned (R10). -/
abbrev Word := BitVec 32

/-- One byte of an image or a record. -/
abbrev Byte := BitVec 8

/-- The value field of an extended record: 24 bits (R10, R87). -/
abbrev Value24 := BitVec 24

/-- The greatest value a 32-bit register holds. -/
def wordMax : Nat := 0xFFFFFFFF

/-- The overflow unit of versions 1 and 2, which is also the greatest 24-bit value (R171). -/
def extUnit : Nat := 0xFFFFFF

end Sys2Proof
end

