-- ==== Sys2Proof/Machine/Bytes.lean ====
section
/-! DEFINITION. Little-endian byte sequences (`00_scope.md` R14, `20_memory.md` R63). -/

namespace Sys2Proof

/-- `LE(n, v)`: the n low bytes of v, least significant first (R14). -/
def leBytes : Nat → Nat → List Byte
  | 0, _ => []
  | n + 1, v => BitVec.ofNat 8 v :: leBytes n (v / 256)

/-- `FromLE(b0 … bn-1)`: the sum of `bi * 256^i` (R14). -/
def fromLE : List Byte → Nat
  | [] => 0
  | b :: t => b.toNat + 256 * fromLE t

/-- The 32-bit word of up to four little-endian bytes. -/
def wordOfLE (bs : List Byte) : Word := BitVec.ofNat 32 (fromLE bs)

/-- The 24-bit value of three little-endian bytes (R87). -/
def value24OfLE (bs : List Byte) : Value24 := BitVec.ofNat 24 (fromLE bs)

end Sys2Proof
end

