-- ==== Sys2Proof/Config.lean ====
section
/-! DEFINITION. The implementation parameters of `00_scope.md` R7 to R9, with the values the spec gives
them by default, and the free values: the sink's answers and its seekability, which have no body. -/

namespace Sys2Proof

/-- The parameters a model of the block takes as arguments (R7). None of them is architectural state
and no step changes them; they travel in `State.par` so that a claim about every state is a claim for
every parameter value (log 3). -/
structure Params where
  /-- `P_MAGIC_A`: magic of the primary family. -/
  magicA : Vector Byte 12
  /-- `P_MAGIC_B`: magic of the other family. -/
  magicB : Vector Byte 12
  /-- `P_CLOCK_TABLE[0][0]`: C64, PAL. -/
  clockC64Pal : Word
  /-- `P_CLOCK_TABLE[0][1]`: C64, NTSC. -/
  clockC64Ntsc : Word
  /-- `P_CLOCK_TABLE[1][0]`: VIC, PAL. -/
  clockVicPal : Word
  /-- `P_CLOCK_TABLE[1][1]`: VIC, NTSC. -/
  clockVicNtsc : Word
  /-- `P_CLOCK_TABLE[2][0]`: C16, PAL. -/
  clockC16Pal : Word
  /-- `P_CLOCK_TABLE[2][1]`: C16, NTSC. -/
  clockC16Ntsc : Word
  /-- `P_SINK_SEEKABLE`: whether the sink accepts a patch of bytes already written. -/
  sinkSeekable : Bool
  deriving DecidableEq, Repr

/-- FREE VALUE (log 2): `P_SINK_SEEKABLE` is an OPEN parameter (R7, decision D25). -/
opaque Config.sinkSeekable : Bool

/-- FREE VALUE (log 1): the draw `SinkOk` of the n-th sink write (R20), where the environment part of
the state has not fixed it. -/
opaque Config.sinkOk : Nat → Bool

/-- What R7 to R9 ask of the parameters: the two magics differ and no clock rate is zero. -/
def Params.wf (p : Params) : Bool :=
  p.magicA != p.magicB && p.clockC64Pal != 0 && p.clockC64Ntsc != 0 && p.clockVicPal != 0 &&
    p.clockVicNtsc != 0 && p.clockC16Pal != 0 && p.clockC16Ntsc != 0

/-- The default values of R7 and R9 (UNVERIFIED: the spec marks them "from general knowledge, not in
source"; log 3), with the OPEN parameter left free. -/
def Params.default : Params where
  magicA := #v[0x43, 0x36, 0x34, 0x2D, 0x54, 0x41, 0x50, 0x45, 0x2D, 0x52, 0x41, 0x57]
  magicB := #v[0x43, 0x31, 0x36, 0x2D, 0x54, 0x41, 0x50, 0x45, 0x2D, 0x52, 0x41, 0x57]
  clockC64Pal := 985248
  clockC64Ntsc := 1022727
  clockVicPal := 1108405
  clockVicNtsc := 1022727
  clockC16Pal := 886724
  clockC16Ntsc := 894886
  sinkSeekable := Config.sinkSeekable

end Sys2Proof
end

