-- ==== Sys2Proof/Machine/State.lean ====
section
/-! DEFINITION. The machine's state as plain data (`10_state.md`), the reasons a step can stop, and the
state after reset (R58). -/

namespace Sys2Proof.Machine

/-- The ten error kinds in the order of `60_exceptions.md` R214 and R215. -/
inductive ResultCode where
  | ok
  | genericFailure
  | outOfMemory
  | backendUnavailable
  | fileNotFound
  | backendError
  | endOfStream
  | interrupted
  | invalidArguments
  | wrongContainerFormat
  deriving DecidableEq, Repr

/-- The six stream states of R33. -/
inductive StreamState where
  | idle
  | reading
  | writing
  | closed
  | interrupted
  | error
  deriving DecidableEq, Repr

/-- Direction of the current or last stream (R34). -/
inductive Direction where
  | read
  | write
  deriving DecidableEq, Repr

/-- The fields of `STATUS` (R31). `Status.toWord` lays them out as the 32-bit register. -/
structure Status where
  /-- bits 3:0, outcome of the last command (R32) -/
  result : ResultCode
  /-- bits 6:4, stream state (R33) -/
  state : StreamState
  /-- bit 7 (R34) -/
  dir : Direction
  /-- bit 8, the encoder holds an unfinished pulse (R35) -/
  encPending : Bool
  /-- bit 9, the overflow marker (R36) -/
  ovfMark : Bool
  /-- bit 10, the scaling ratio is loaded (R37) -/
  scalerReady : Bool
  /-- bit 11, the header read gave version 2 (R38) -/
  hdrV2 : Bool
  /-- bit 12, the header read matched `P_MAGIC_B` (R39) -/
  hdrFamily : Bool
  /-- bit 13, CLOSE dropped an unfinished pulse (R40) -/
  discarded : Bool
  /-- bit 14, sticky fault (R41) -/
  fault : Bool
  /-- bits 17:16, format revision of the current stream (R42) -/
  version : BitVec 2
  deriving DecidableEq, Repr

/-- A byte image (R52): its length, and the non-zero bytes below it as (address, byte) cells in rising
order. A byte below the length that no cell lists reads as zero; at or above the length there is no
byte. `Memory.wf` is the canonical form (log 6). -/
structure Memory where
  len : Nat
  cells : List Host.Cell
  deriving DecidableEq, Repr

/-- What DEC keeps while it reads one record (R54, R148). -/
structure DecWork where
  /-- `IN_POS` where the record began -/
  start : Word
  /-- the 32-bit version-0 accumulator -/
  acc : Word
  /-- zero bytes of the record read so far -/
  zeros : Nat
  deriving DecidableEq, Repr

/-- One host access (`10_state.md` R27, R52, R55). -/
inductive BusOp where
  /-- a 32-bit write at a byte offset of the register window -/
  | write (offset : Nat) (w : Word)
  /-- a 32-bit read at a byte offset of the register window -/
  | read (offset : Nat)
  /-- an access narrower than 32 bits, which R55 leaves undefined -/
  | narrow (offset : Nat)
  /-- the host attaches these bytes as the input image (R52, R243) -/
  | attachInput (bytes : List Byte)
  /-- the host attaches a fresh, empty sink (R234, R243) -/
  | attachSink
  deriving DecidableEq, Repr

/-- The whole state. -/
structure State where
  /-- offset 0x04 (R29) -/
  arg0 : Word
  /-- offset 0x08 (R29) -/
  arg1 : Word
  /-- offset 0x0C (R30) -/
  res0 : Word
  /-- offset 0x10 (R30) -/
  res1 : Word
  /-- offset 0x14 (R31) -/
  status : Status
  /-- `CTRL.TERM`, bit 0 of offset 0x18 (R43) -/
  term : Bool
  /-- offset 0x1C (R44) -/
  streamCfg : Word
  /-- offset 0x20 (R46) -/
  scaleSel : Word
  /-- offset 0x24 (R47) -/
  scaleRate : Word
  /-- offset 0x28 (R48) -/
  scaleClock : Word
  /-- offset 0x2C, the encoder's residual (R49) -/
  encRes : Word
  /-- offset 0x30, bytes appended to the write stream (R50) -/
  outCount : Word
  /-- offset 0x34, the read cursor (R51) -/
  inPos : Word
  /-- DEC's working values inside one command (R54) -/
  dec : DecWork
  /-- ENC's byte count inside one command (R54) -/
  encCount : Word
  /-- `IN_IMG`; `IN_LEN` is its length (R52) -/
  inImg : Memory
  /-- MODEL's own: the image the host has attached and no OPEN_READ has read yet (log 19) -/
  offered : Option Memory
  /-- `OUT_IMG` (R52) -/
  outImg : Memory
  /-- the parameters of `00_scope.md` R7, which no step changes (log 3) -/
  par : Params
  /-- MODEL's own: host accesses to come, the next one first (log 4) -/
  host : List BusOp
  /-- MODEL's own: the word the last host read returned (log 5) -/
  rdata : Word
  /-- MODEL's own: sink answers the environment has fixed, the next one first (R20, log 1) -/
  sinkDraws : List Bool
  /-- MODEL's own: how many draws have been taken (log 1) -/
  drawCount : Nat
  deriving DecidableEq, Repr

/-- Why the machine stops where no rule of the spec covers the state. Each names a precondition a command
rule states and relies on; no run from reset reaches one. All are SAFE: the machine stops and claims
nothing (log 12). -/
inductive Fault where
  /-- raised by REC_DECODE when `IN_POS` lies past `IN_LEN`, where R15 defines no read -/
  | sourceHole
  /-- raised by a sink write that is neither an append nor a patch, which R16 excludes -/
  | sinkHole
  /-- raised by SCALE_S2C and SCALE_C2S when the divisor is zero, which R196 excludes -/
  | zeroDivisor
  /-- raised by CLOSE when `OUT_COUNT` is below 20, which R130 excludes -/
  | lengthUnderflow
  deriving DecidableEq, Repr

/-- Why a step is not taken. All are SAFE: nothing is claimed of what the hardware does there. -/
inductive Refusal where
  /-- raised by `exec` for an instruction that has no meaning; no arm of this model raises it -/
  | notModelled (mnemonic : String)
  /-- raised by a misaligned or narrow access, or one outside the register window (R55, R67; log 14) -/
  | undefinedAccess
  /-- raised when the host changes `IN_IMG` while a read stream uses it (R71, R234; log 13) -/
  | inputInUse
  /-- raised when the host replaces the sink while a write stream uses it (R71, R234; log 13) -/
  | sinkInUse
  /-- raised when an attached image is longer than 0xFFFFFFFF bytes (R52; log 13) -/
  | imageTooLong
  /-- raised by a data row executed where the open stream is not at that record or header (log 8) -/
  | notPresented
  deriving DecidableEq, Repr

/-- Between commands DEC holds nothing (R54; the values are a DESIGN CHOICE, log 9). -/
def DecWork.idle : DecWork := { start := 0, acc := 0, zeros := 0 }

/-- An image of no bytes. -/
def Memory.empty : Memory := { len := 0, cells := [] }

/-- `STATUS` after reset: every field 0 (R58). -/
def Status.reset : Status where
  result := .ok
  state := .idle
  dir := .read
  encPending := false
  ovfMark := false
  scalerReady := false
  hdrV2 := false
  hdrFamily := false
  discarded := false
  fault := false
  version := 0

/-- The state after power-on reset: every register and field 0 (R58, R141, R241). The images are empty at
power-on (log 7), no host access is pending (log 4), and the parameters have the spec's defaults
(log 3). -/
def State.reset : State where
  arg0 := 0
  arg1 := 0
  res0 := 0
  res1 := 0
  status := Status.reset
  term := false
  streamCfg := 0
  scaleSel := 0
  scaleRate := 0
  scaleClock := 0
  encRes := 0
  outCount := 0
  inPos := 0
  dec := DecWork.idle
  encCount := 0
  inImg := Memory.empty
  offered := none
  outImg := Memory.empty
  par := Params.default
  host := []
  rdata := 0
  sinkDraws := []
  drawCount := 0

end Sys2Proof.Machine
end

