-- ==== Sys2Proof/Machine/Ops.lean ====
section
/-! DEFINITION. The named operations over images and registers that the commands share: byte images, sink
writes and their draws (`00_scope.md` R15, R16, R20), ending a command (R18), and the ways a command
leaves the normal path: cancellation (R223), a passed 32-bit limit (R218), a refusal (R143). -/

namespace Sys2Proof.Machine

/-- The outcome of a step of this machine. -/
abbrev Out := Host.Outcome State Fault Refusal

/-! ## Byte images -/

/-- What a list of cells holds at an address: zero where no cell lists it (log 6). -/
def cellAt : List Host.Cell → Nat → Byte
  | [], _ => 0
  | (k, b) :: t, a => if k = a then b else cellAt t a

/-- The cells with address a holding b, in canonical form: a zero byte is not listed (log 6). -/
def setCell : List Host.Cell → Nat → Byte → List Host.Cell
  | [], a, b => if b = 0 then [] else [(a, b)]
  | (k, v) :: t, a, b =>
    if a < k then (if b = 0 then (k, v) :: t else (a, b) :: (k, v) :: t)
    else if a = k then (if b = 0 then t else (a, b) :: t)
    else (k, v) :: setCell t a b

/-- The byte at an offset, if the image has one there (R15, R52). -/
def Memory.byte? (m : Memory) (a : Nat) : Option Byte :=
  if a < m.len then some (cellAt m.cells a) else none

/-- The image with one more byte at its end (R16). -/
def Memory.push (m : Memory) (b : Byte) : Memory :=
  { len := m.len + 1, cells := if b = 0 then m.cells else m.cells ++ [(m.len, b)] }

/-- `IMG ‖ bs` (R16). -/
def Memory.append (m : Memory) : List Byte → Memory
  | [] => m
  | b :: t => (m.push b).append t

/-- The image with the byte at offset a replaced, for an a below its length. -/
def Memory.poke (m : Memory) (a : Nat) (b : Byte) : Memory :=
  { m with cells := setCell m.cells a b }

/-- The image with the bytes from offset a on replaced by bs (R16). -/
def Memory.patch (m : Memory) (a : Nat) : List Byte → Memory
  | [] => m
  | b :: t => (m.poke a b).patch (a + 1) t

/-- The image of a byte sequence. -/
def Memory.ofBytes (bs : List Byte) : Memory := Memory.empty.append bs

/-- The bytes from offset a on: n of them, or as many as there are (R15). -/
def Memory.bytesFrom (m : Memory) (a : Nat) : Nat → List Byte
  | 0 => []
  | n + 1 =>
    match m.byte? a with
    | none => []
    | some b => b :: m.bytesFrom (a + 1) n

/-- Cell addresses from lo on strictly rise, stay below len, and no listed byte is zero. -/
def cellsWf (lo len : Nat) : List Host.Cell → Bool
  | [] => true
  | (k, b) :: t => decide (lo ≤ k) && decide (k < len) && b != 0 && cellsWf (k + 1) len t

/-- The canonical form of an image (log 6). Two images in it that hold the same bytes are the same
data. -/
def Memory.wf (m : Memory) : Bool := cellsWf 0 m.len m.cells

/-! ## Ending a command -/

/-- `Finish(code)` (R18, R210): it writes `STATUS.RESULT` and changes nothing else. -/
def State.finish (code : ResultCode) (s : State) : State :=
  { s with status := { s.status with result := code } }

/-- `STATUS.STATE <- st` (R33). -/
def State.enter (st : StreamState) (s : State) : State :=
  { s with status := { s.status with state := st } }

/-- `RES0 <- r0; RES1 <- r1` (R30). -/
def State.results (r0 r1 : Word) (s : State) : State :=
  { s with res0 := r0, res1 := r1 }

/-- `STATUS.FAULT <- 1` (R41, R218). -/
def State.raiseFault (s : State) : State :=
  { s with status := { s.status with fault := true } }

/-- The command ends with a code and no further change: what a refusal does (R143, R212). -/
def ended (code : ResultCode) (s : State) : Out := .next (s.finish code)

/-- Cancellation by `CTRL.TERM` (R147, R169, R223): the stream goes to INTERRUPTED and the command ends
with Interrupted; no byte moves. -/
def State.cancel (s : State) : State := (s.enter .interrupted).finish .interrupted

/-- A stream quantity passed its 32-bit limit (R157, R179, R218): FAULT, state ERROR, GenericFailure. -/
def State.overLimit (s : State) : State := (s.raiseFault.enter .error).finish .genericFailure

/-- The checks every pulse command makes before its work, in the order of R146, R167 and R168: the two
holds, the state it needs, then TERM. -/
def pulseGate (home : StreamState) (work : State → Out) (s : State) : Out :=
  if s.status.state = .interrupted then ended .interrupted s
  else if s.status.state = .error then ended .genericFailure s
  else if s.status.state ≠ home then ended .invalidArguments s
  else if s.term then .next s.cancel
  else work s

/-! ## Inside one command -/

/-- Where a command stands after one record: it goes on, it has ended with `Finish`, or a rule's
precondition does not hold (log 12). -/
inductive Micro where
  | more (s : State)
  | done (s : State)
  | stop (f : Fault)
  deriving DecidableEq, Repr

/-- What the step answers where the command stands so. -/
def Micro.out : Micro → Out
  | .more s => .next s
  | .done s => .next s
  | .stop f => .fault f

/-- The command goes on with k, unless it has ended. -/
def Micro.andThen (m : Micro) (k : State → Micro) : Micro :=
  match m with
  | .more s => k s
  | .done s => .done s
  | .stop f => .stop f

/-! ## Sink writes -/

/-- The draw `SinkOk` of the k-th sink write from here on (R20): as the environment has fixed it, else the
free value (log 1). -/
def State.upcomingDraw (s : State) (k : Nat) : Bool :=
  match s.sinkDraws[k]? with
  | some b => b
  | none => Config.sinkOk (s.drawCount + k)

/-- The state after n draws are taken (R20). -/
def State.skipDraws (n : Nat) (s : State) : State :=
  { s with sinkDraws := s.sinkDraws.drop n, drawCount := s.drawCount + n }

/-- `MemWrite(a, n, v)` of the bytes `LE(n, v)` (R16): an append where a is the length of `OUT_IMG`, a
patch where the bytes lie inside it. The answer says whether it succeeded; on failure no byte changes
(R69). Each call takes one draw. Any other offset is one R16 excludes. -/
def memWrite (a : Nat) (bs : List Byte) (s : State) : Except Fault (Bool × State) :=
  let ok := s.upcomingDraw 0
  let t := s.skipDraws 1
  if a = s.outImg.len then
    .ok (ok, if ok then { t with outImg := s.outImg.append bs } else t)
  else if a + bs.length ≤ s.outImg.len then
    .ok (ok && s.par.sinkSeekable,
      if ok && s.par.sinkSeekable then { t with outImg := s.outImg.patch a bs } else t)
  else .error .sinkHole

end Sys2Proof.Machine
end

