-- ==== Sys2Proof/Machine/Flags.lean ====
section
/-! DEFINITION. The `STATUS` register as a word (`10_state.md` R31), its codes (R33, R215), and the
updates of its flags that more than one rule makes (R35, R36). -/

namespace Sys2Proof.Machine

/-- The numbers of R215. -/
def ResultCode.code : ResultCode → BitVec 4
  | .ok => 0
  | .genericFailure => 1
  | .outOfMemory => 2
  | .backendUnavailable => 3
  | .fileNotFound => 4
  | .backendError => 5
  | .endOfStream => 6
  | .interrupted => 7
  | .invalidArguments => 8
  | .wrongContainerFormat => 9

/-- The numbers of R33. -/
def StreamState.code : StreamState → BitVec 3
  | .idle => 0
  | .reading => 1
  | .writing => 2
  | .closed => 3
  | .interrupted => 4
  | .error => 5

/-- 0 read, 1 write (R31). -/
def Direction.bit : Direction → BitVec 1
  | .read => 0
  | .write => 1

/-- One flag bit. -/
def flagBit (b : Bool) : BitVec 1 := BitVec.ofBool b

/-- `STATUS` as the host reads it (R31): from bit 31 down, fourteen zeros, VERSION, a zero, FAULT,
DISCARDED, HDR_FAMILY, HDR_V2, SCALER_READY, OVF_MARK, ENC_PENDING, DIR, STATE, RESULT. -/
def Status.toWord (t : Status) : Word :=
  (0 : BitVec 14) ++ t.version ++ (0 : BitVec 1) ++ flagBit t.fault ++ flagBit t.discarded ++
    flagBit t.hdrFamily ++ flagBit t.hdrV2 ++ flagBit t.scalerReady ++ flagBit t.ovfMark ++
    flagBit t.encPending ++ t.dir.bit ++ t.state.code ++ t.result.code

/-- `STATUS.ENC_PENDING <- b` (R35). -/
def State.setPending (b : Bool) (s : State) : State :=
  { s with status := { s.status with encPending := b } }

/-- `STATUS.OVF_MARK <- b` (R36). -/
def State.setMark (b : Bool) (s : State) : State :=
  { s with status := { s.status with ovfMark := b } }

/-- A stream is open in the given direction: the states in which the host may not touch that stream's
image (R71, R234). INTERRUPTED and ERROR keep the direction of the stream they hold (R34). -/
def Status.streamOpen (t : Status) (d : Direction) : Bool :=
  match t.state with
  | .idle => false
  | .closed => false
  | .reading => d == .read
  | .writing => d == .write
  | .interrupted => t.dir == d
  | .error => t.dir == d

end Sys2Proof.Machine
end

