-- ==== Sys2Proof/Syntax.lean ====
section
/-! DEFINITION. The instructions: one constructor per row of `spec/opcode_table.json`. Commands carry no
operand, because their operands stand in `ARG0` and `ARG1` (`30_encoding.md` R96, R99). The rows of the
TAP data space carry the fields of their bytes (R81, R83). -/

namespace Sys2Proof

/-- Which of the two magics a header holds (R81): `P_MAGIC_A` or `P_MAGIC_B`. -/
inductive Family where
  | primary    -- P_MAGIC_A
  | alternate  -- P_MAGIC_B
  deriving DecidableEq, Repr

/-- The 20-byte TAP header, field by field (R81). -/
structure Header where
  /-- bytes 0..11 -/
  family : Family
  /-- byte 12, `HVER` -/
  ver : Byte
  /-- byte 13, `HMACH` -/
  mach : Byte
  /-- byte 14, `HVID` -/
  vid : Byte
  /-- byte 15, `HRSV` -/
  rsv : Byte
  /-- bytes 16..19, `HLEN`, little-endian -/
  len : Word
  deriving DecidableEq, Repr

/-- What DEC reads and ENC emits in one piece: a non-zero byte, a version-0 zero byte, or an extended
record (R84, R85, R87). -/
inductive RecUnit where
  | short (b : Byte)
  | zero
  | ext (v : Value24)
  deriving DecidableEq, Repr

/-- The rows of the opcode table. -/
inductive Instr where
  /-- OPEN_READ, command word 0x01 -/
  | openRead
  /-- OPEN_WRITE, command word 0x02 -/
  | openWrite
  /-- REC_DECODE, command word 0x03 -/
  | recDecode
  /-- ENC_PULSE, command word 0x04 -/
  | encPulse
  /-- ENC_DRAIN, command word 0x05 -/
  | encDrain
  /-- CLOSE, command word 0x06 -/
  | close
  /-- SCALE_CFG, command word 0x07 -/
  | scaleCfg
  /-- SCALE_S2C, command word 0x08 -/
  | scaleS2C
  /-- SCALE_C2S, command word 0x09 -/
  | scaleC2S
  /-- RESET, command word 0x0A -/
  | reset
  /-- every other command word (R98) -/
  | illegal (w : Word)
  /-- SHORT: one non-zero byte (R84) -/
  | short (b : Byte)
  /-- V0ESC: one zero byte, version 0 only (R85) -/
  | v0esc
  /-- V0CHAIN: n zero bytes closed by a non-zero byte, version 0 only (R86) -/
  | v0chain (n : Nat) (b : Byte)
  /-- EXT: zero byte and a 24-bit value, versions 1 and 2 (R87) -/
  | ext (v : Value24)
  /-- EXT-OVF: the extended record of value 0xFFFFFF (R88) -/
  | extOvf
  /-- EXT-ZERO: the extended record of value 0 (R89) -/
  | extZero
  /-- HDR: the 20-byte header (R81) -/
  | hdr (h : Header)
  deriving DecidableEq, Repr

/-- The table row a unit of record bytes is. The values 0xFFFFFF and 0 of the extended form have rows
of their own (R88, R89). -/
def RecUnit.toInstr : RecUnit → Instr
  | .short b => .short b
  | .zero => .v0esc
  | .ext v => if v = 0xFFFFFF then .extOvf else if v = 0 then .extZero else .ext v

end Sys2Proof
end

