-- ==== Sys2Proof/WellFormed.lean ====
section
/-! DEFINITION. Which terms of `Instr` are encodings of the spec, and which encoding space each lies in
(`30_encoding.md` R80). -/

namespace Sys2Proof

/-- The field restrictions of the table's rows: an illegal word is one R97 does not select; a SHORT or
closing byte is not zero (R84, R86); a chain has at least one zero byte (R86); the values 0 and
0xFFFFFF of the extended form are the rows EXT-ZERO and EXT-OVF (R88, R89); a header's version is at
most 2 (R82). -/
def Instr.wf : Instr → Bool
  | .openRead | .openWrite | .recDecode | .encPulse | .encDrain => true
  | .close | .scaleCfg | .scaleS2C | .scaleC2S | .reset => true
  | .illegal w => w.toNat == 0 || decide (10 < w.toNat)
  | .short b => b != 0
  | .v0esc => true
  | .v0chain n b => n != 0 && b != 0
  | .ext v => v != 0 && v != 0xFFFFFF
  | .extOvf | .extZero => true
  | .hdr h => decide (h.ver.toNat ≤ 2)

/-- The encoding spaces (R80). Inside the record stream a reader takes either one unit (what DEC reads
in one piece) or one whole record, and the version decides which forms exist (R83). -/
inductive Space where
  | command
  | header
  | unit (ver : BitVec 2)
  | record (ver : BitVec 2)
  deriving DecidableEq, Repr

/-- Which rows a space holds (R80, R83, R97). -/
def Instr.inSpace : Instr → Space → Bool
  | .openRead, .command | .openWrite, .command | .recDecode, .command => true
  | .encPulse, .command | .encDrain, .command | .close, .command => true
  | .scaleCfg, .command | .scaleS2C, .command | .scaleC2S, .command => true
  | .reset, .command | .illegal _, .command => true
  | .hdr _, .header => true
  | .short _, .unit _ | .short _, .record _ => true
  | .v0esc, .unit v => v == 0
  | .v0chain _ _, .record v => v == 0
  | .ext _, .unit v | .ext _, .record v => v != 0
  | .extOvf, .unit v | .extOvf, .record v => v != 0
  | .extZero, .unit v | .extZero, .record v => v != 0
  | _, _ => false

end Sys2Proof
end

