-- ==== Sys2Proof/Decode.lean ====
section
/-! DEFINITION. Decoding of the two encoding spaces (`30_encoding.md` R80): command words (R96 to R98),
the 20-byte header (R81, R82) and pulse records (R83 to R90); then the encoder, and the host's view of a
table row's bits. Decoding is total: what is no instruction is rejected by name. -/

namespace Sys2Proof

/-- Why bytes are no instruction of the space they are read in. -/
inductive Reject where
  /-- no byte at all: the image ends at a record boundary (R150) -/
  | empty
  /-- the image ends inside a record (R90, R156) -/
  | truncated
  /-- fewer than 20 bytes of header (R117) -/
  | shortHeader
  /-- bytes 0..11 are neither magic (R82, R117) -/
  | badMagic
  /-- the version byte is above 2 (R82, R118) -/
  | badVersion
  /-- a word where bytes are read, or bytes where a word is (R80) -/
  | wrongSpace
  deriving DecidableEq, Repr

/-! ## Command words -/

/-- The opcode map (R97) by the value of the whole word: `OPC` is bits 7:0 and bits 31:8 must be zero,
so a word selects a command iff its value is 1 to 10. -/
def decodeCommand (w : Word) : Instr :=
  match w.toNat with
  | 1 => .openRead
  | 2 => .openWrite
  | 3 => .recDecode
  | 4 => .encPulse
  | 5 => .encDrain
  | 6 => .close
  | 7 => .scaleCfg
  | 8 => .scaleS2C
  | 9 => .scaleC2S
  | 10 => .reset
  | _ => .illegal w

/-! ## Records -/

/-- One unit of record bytes and what follows it (R90): a non-zero byte is SHORT in every version; a
zero byte is an escape in version 0 and opens a four-byte extended record in versions 1 and 2. -/
def decodeUnit (ver : BitVec 2) : List Byte → Except Reject (RecUnit × List Byte)
  | [] => .error .empty
  | b :: t =>
    if b ≠ 0 then .ok (.short b, t)
    else if ver = 0 then .ok (.zero, t)
    else match t with
      | b1 :: b2 :: b3 :: rest => .ok (.ext (value24OfLE [b1, b2, b3]), rest)
      | _ => .error .truncated

/-- The rest of a version-0 chain of which n zero bytes are read: more zero bytes, then the closing byte
(R86). -/
def decodeChain (n : Nat) : List Byte → Except Reject (Instr × List Byte)
  | [] => .error .truncated
  | b :: t => if b = 0 then decodeChain (n + 1) t else .ok (.v0chain n b, t)

/-- One whole record and what follows it (R83, R90). -/
def decodeRecord (ver : BitVec 2) (bs : List Byte) : Except Reject (Instr × List Byte) :=
  match decodeUnit ver bs with
  | .error r => .error r
  | .ok (.zero, t) => decodeChain 1 t
  | .ok (u, t) => .ok (u.toInstr, t)

/-! ## The header -/

/-- Which family's magic these 12 bytes are, if any (R82). -/
def familyOf (p : Params) (magic : List Byte) : Option Family :=
  if magic = p.magicA.toList then some .primary
  else if magic = p.magicB.toList then some .alternate
  else none

/-- The header at the front of an image and what follows it (R81, R82): length, then magic, then
version. The other fields are not checked. -/
def decodeHeader (p : Params) (bs : List Byte) : Except Reject (Header × List Byte) :=
  if bs.length < 20 then .error .shortHeader
  else match familyOf p (bs.take 12), bs.drop 12 with
    | none, _ => .error .badMagic
    | some f, ver :: mach :: vid :: rsv :: l0 :: l1 :: l2 :: l3 :: rest =>
      if 2 < ver.toNat then .error .badVersion
      else .ok ({ family := f, ver := ver, mach := mach, vid := vid, rsv := rsv,
                  len := wordOfLE [l0, l1, l2, l3] }, rest)
    | some _, _ => .error .shortHeader

/-! ## One decoder over both spaces -/

/-- What an instruction is written as: a word for `CMD`, or bytes of an image (R80). -/
inductive Code where
  | word (w : Word)
  | bytes (bs : List Byte)
  deriving DecidableEq, Repr

/-- Decoding in a given space; neither space reads the other's code (R80). The bytes after the
instruction come back beside it. -/
def decode (p : Params) : Space → Code → Except Reject (Instr × List Byte)
  | .command, .word w => .ok (decodeCommand w, [])
  | .header, .bytes bs =>
    match decodeHeader p bs with
    | .ok (h, rest) => .ok (.hdr h, rest)
    | .error r => .error r
  | .unit ver, .bytes bs =>
    match decodeUnit ver bs with
    | .ok (u, rest) => .ok (u.toInstr, rest)
    | .error r => .error r
  | .record ver, .bytes bs => decodeRecord ver bs
  | _, _ => .error .wrongSpace

/-! ## The encoder -/

/-- The magic of a family (R8). -/
def magicBytes (p : Params) : Family → List Byte
  | .primary => p.magicA.toList
  | .alternate => p.magicB.toList

/-- The 20 bytes of a header (R81). -/
def encodeHeader (p : Params) (h : Header) : List Byte :=
  magicBytes p h.family ++ [h.ver, h.mach, h.vid, h.rsv] ++ leBytes 4 h.len.toNat

/-- The bytes of a record unit (R84, R85, R87). -/
def encodeUnit : RecUnit → List Byte
  | .short b => [b]
  | .zero => [0]
  | .ext v => 0 :: leBytes 3 v.toNat

/-- The code of an instruction, from the encoding tables (R81, R83, R97). -/
def encode (p : Params) : Instr → Code
  | .openRead => .word 1
  | .openWrite => .word 2
  | .recDecode => .word 3
  | .encPulse => .word 4
  | .encDrain => .word 5
  | .close => .word 6
  | .scaleCfg => .word 7
  | .scaleS2C => .word 8
  | .scaleC2S => .word 9
  | .reset => .word 10
  | .illegal w => .word w
  | .short b => .bytes (encodeUnit (.short b))
  | .v0esc => .bytes (encodeUnit .zero)
  | .v0chain n b => .bytes (List.replicate n 0 ++ [b])
  | .ext v => .bytes (encodeUnit (.ext v))
  | .extOvf => .bytes (encodeUnit (.ext 0xFFFFFF))
  | .extZero => .bytes (encodeUnit (.ext 0))
  | .hdr h => .bytes (encodeHeader p h)

/-- The code with further bytes after it, where it is bytes. -/
def Code.followedBy : Code → List Byte → Code
  | .word w, _ => .word w
  | .bytes bs, rest => .bytes (bs ++ rest)

/-! ## The table's rows by their bits -/

/-- Where an instruction of nbits bits with the value w lies, as the opcode table lays its rows out
(log 11): a 32-bit word is a command word, but for the two 32-bit record patterns the table lists, which
it numbers as one word whose first byte in image order is the most significant; 160 bits are the header;
anything else is bytes of a version-0 stream, the first byte least significant. -/
inductive RowPlace where
  | commandWord (w : Word)
  | extendedRecord (bs : List Byte)
  | headerBytes (bs : List Byte)
  | version0Byte (bs : List Byte)
  | version0Record (bs : List Byte)
  deriving DecidableEq, Repr

/-- The place of a row's bits (log 11). -/
def rowPlace (nbits w : Nat) : RowPlace :=
  if nbits = 32 then
    if w = 0 ∨ w = extUnit then .extendedRecord (leBytes 4 w).reverse
    else .commandWord (BitVec.ofNat 32 w)
  else if nbits = 160 then .headerBytes (leBytes 20 w)
  else if nbits ≤ 8 then .version0Byte (leBytes 1 w)
  else .version0Record (leBytes (nbits / 8) w)

/-- The instruction a decoding answered, if it answered one. -/
def decoded (r : Except Reject (Instr × List Byte)) : Option Instr :=
  match r with
  | .ok (i, _) => some i
  | .error _ => none

/-- The instruction the decoder reads from an instruction whose bits are w, numbered as the opcode table
numbers them. -/
def decodeTableWord (nbits w : Nat) : Option Instr :=
  match rowPlace nbits w with
  | .commandWord c => decoded (decode Params.default .command (.word c))
  | .extendedRecord bs => decoded (decode Params.default (.unit 1) (.bytes bs))
  | .headerBytes bs => decoded (decode Params.default .header (.bytes bs))
  | .version0Byte bs => decoded (decode Params.default (.unit 0) (.bytes bs))
  | .version0Record bs => decoded (decode Params.default (.record 0) (.bytes bs))

end Sys2Proof
end

