-- ==== Sys2Proof/Machine/Operands.lean ====
section
/-! DEFINITION. Operand forms: the configuration word (`10_state.md` R44, R45), the parameters it selects
(`00_scope.md` R8, R9), and the bytes at the read cursor. -/

namespace Sys2Proof.Machine

/-- `CVER`, bits 1:0 (R44). -/
def cfgVer (w : Word) : BitVec 2 := w.extractLsb' 0 2

/-- `CMACH`, bits 3:2 (R44). -/
def cfgMach (w : Word) : BitVec 2 := w.extractLsb' 2 2

/-- `CVID`, bit 4: 1 is NTSC (R44). -/
def cfgVid (w : Word) : Bool := w.getLsbD 4

/-- `V0MODE`, bit 5: 1 is OVERWRITE (R44). -/
def cfgOverwrite (w : Word) : Bool := w.getLsbD 5

/-- `CfgValid(w)` (R45). -/
def cfgValid (w : Word) : Bool :=
  decide ((cfgVer w).toNat ≤ 2) && decide ((cfgMach w).toNat ≤ 2) && w.extractLsb' 6 26 == 0

/-- The literal `cfg(ver, mach, vid, v0mode)` of R102. -/
def cfgWord (ver mach vid v0mode : Nat) : Word :=
  BitVec.ofNat 32 (ver ||| mach <<< 2 ||| vid <<< 4 ||| v0mode <<< 5)

/-- The family whose magic machine id m uses (R8). -/
def familyFor (m : BitVec 2) : Family := if m = 2 then .alternate else .primary

/-- `P_CLOCK_TABLE[m][v]` (R9). Every caller has checked that the machine id is at most 2. -/
def clockRate (p : Params) (m : BitVec 2) (ntsc : Bool) : Word :=
  if m = 0 then (if ntsc then p.clockC64Ntsc else p.clockC64Pal)
  else if m = 1 then (if ntsc then p.clockVicNtsc else p.clockVicPal)
  else (if ntsc then p.clockC16Ntsc else p.clockC16Pal)

/-- The record unit at the read cursor, if a whole one stands there (R90). -/
def State.unitAtCursor (s : State) : Except Reject RecUnit :=
  match decodeUnit s.status.version (s.inImg.bytesFrom s.inPos.toNat 4) with
  | .ok (u, _) => .ok u
  | .error r => .error r

end Sys2Proof.Machine
end

