-- ==== Sys2Proof/Machine/Records.lean ====
section
/-! DEFINITION. One record at a time: what DEC does with the unit at the read cursor (`41_record_decode.md`
R148) and what ENC does with the unit it owes next (`42_record_encode.md` R170). REC_DECODE, ENC_PULSE and
ENC_DRAIN repeat these; the record rows of the opcode table are these. -/

namespace Sys2Proof.Machine

/-! ## DEC -/

/-- A record begins at the cursor (R148): `start = IN_POS; acc = 0; zeros = 0`. -/
def State.beginRecord (s : State) : State :=
  { s with dec := { start := s.inPos, acc := 0, zeros := 0 } }

/-- The record is over: DEC holds nothing between commands (R54, log 9). -/
def State.endRecord (s : State) : State := { s with dec := DecWork.idle }

/-- `IN_POS <- IN_POS + n` (R15, R51). -/
def State.consume (n : Nat) (s : State) : State :=
  { s with inPos := s.inPos + BitVec.ofNat 32 n }

/-- `RES1` of REC_DECODE (R100, R154): bytes consumed, saturating at 0xFFFFFF, and the form. -/
def recInfo (consumed form : Nat) : Word :=
  BitVec.ofNat 32 (min consumed 0xFFFFFF) ||| (BitVec.ofNat 32 form <<< 24)

/-- Bytes consumed since the record began: `IN_POS - start` (R148). -/
def State.consumed (s : State) : Nat := s.inPos.toNat - s.dec.start.toNat

/-- REC_DECODE ends with Ok, a duration and a form (R154). -/
def State.decoded (cycles : Word) (form : Nat) (s : State) : State :=
  ((s.results cycles (recInfo s.consumed form)).endRecord).finish .ok

/-- REC_DECODE ends with EndOfStream, at a record boundary (R150) or inside a record (R156). -/
def State.endOfInput (s : State) : State :=
  ((s.results 0 (recInfo s.consumed 0)).endRecord).finish .endOfStream

/-- A zero byte of a version-0 record (R85, R148, R157): in ADD mode it adds 2048 to the accumulator, and
past 32 bits the record faults; in OVERWRITE mode it is only counted. -/
def decZero (s : State) : Micro :=
  let t := s.consume 1
  let u := { t with dec := { t.dec with zeros := t.dec.zeros + 1 } }
  if cfgOverwrite s.streamCfg then .more u
  else if wordMax < s.dec.acc.toNat + 2048 then .done u.endRecord.overLimit
  else .more { u with dec := { u.dec with acc := u.dec.acc + 2048 } }

/-- A non-zero byte (R148): alone it is SHORT (R149); after zero bytes it closes a chain, added to the
accumulator in ADD mode (R152) or by itself in OVERWRITE mode (R153). -/
def decShort (b : Byte) (s : State) : Micro :=
  let eight : Word := b.zeroExtend 32 <<< 3
  if s.dec.zeros = 0 then .done ((s.consume 1).decoded eight 1)
  else if cfgOverwrite s.streamCfg then .done ((s.consume 1).decoded eight 2)
  else .done ((s.consume 1).decoded (s.dec.acc + eight) 2)

/-- An extended record (R151): its 24-bit value as it stands, four bytes, form 3. -/
def decExt (v : Value24) (s : State) : Micro :=
  .done ((((s.consume 4).results (v.zeroExtend 32) (recInfo 4 3)).endRecord).finish .ok)

/-- What DEC does with the unit at the cursor. -/
def decUnit (u : RecUnit) (s : State) : Micro :=
  match u with
  | .short b => decShort b s
  | .zero => decZero s
  | .ext v => decExt v s

/-- One turn of the loop of R148. Past the end of the image R15 defines no read (log 12). -/
def decTurn (s : State) : Micro :=
  if s.inImg.len < s.inPos.toNat then .stop .sourceHole
  else match s.unitAtCursor with
    | .ok u => decUnit u s
    | .error .truncated => .done { s with inPos := BitVec.ofNat 32 s.inImg.len }.endOfInput
    | .error _ => .done s.endOfInput

/-- The loop of R148, at most `fuel` turns. -/
def decLoop : Nat → State → Micro
  | 0, s => .more s
  | fuel + 1, s => (decTurn s).andThen (decLoop fuel)

/-- The body of REC_DECODE after its checks (R148). Every turn that does not end the command takes a byte,
so the bytes left and one turn more are turns enough. -/
def decRecord (s : State) : Out :=
  (decLoop (s.inImg.len - s.inPos.toNat + 1) s.beginRecord).out

/-! ## ENC -/

/-- `overflowUnit` (R171). -/
def overflowUnit (ver : BitVec 2) : Nat := if ver = 0 then 2048 else extUnit

/-- The SHORT byte of a residual (R175): rounded up to a multiple of 8, at most 0x7F8, divided by 8. -/
def shortByte (d : Nat) : Byte := BitVec.ofNat 8 (min ((d + 7) / 8 * 8) 0x7F8 / 8)

/-- The unit ENC emits next for a residual d (R170): the version's escape while d is at least
overflowUnit (R173), else an extended record (R174), else a SHORT byte (R175), else none (R176). -/
def encNext (ver : BitVec 2) (d : Nat) (mark : Bool) : Option RecUnit :=
  if overflowUnit ver ≤ d then some (if ver = 0 then .zero else .ext 0xFFFFFF)
  else if 2048 ≤ d ∨ (d = 0 ∧ ver ≠ 0 ∧ mark) then some (.ext (BitVec.ofNat 24 d))
  else if 0 < d then some (.short (shortByte d))
  else none

/-- What ENC emits next in this state. -/
def State.unitOwed (s : State) : Option RecUnit :=
  encNext s.status.version s.encRes.toNat s.status.ovfMark

/-- The encoder command reports and ends: `RES0 <- n; RES1 <- ENC_RES` (R177 to R180); the byte count
does not outlive the command (R54, log 9). -/
def State.encReport (code : ResultCode) (s : State) : State :=
  { s.results s.encCount s.encRes with encCount := 0 }.finish code

/-- The pulse is complete (R177). -/
def State.encComplete (s : State) : State :=
  ({ s with encRes := 0 }.setPending false).encReport .ok

/-- The capacity stops the pulse before a record (R178). -/
def State.encStop (s : State) : State := (s.setPending true).encReport .ok

/-- The sink refused a record (R180). -/
def State.encSinkFailed (s : State) : State := (s.enter .error).encReport .backendError

/-- `OUT_COUNT` would pass 32 bits (R179). -/
def State.encOverLimit (s : State) : State := s.overLimit.encReport .genericFailure

/-- What an emitted unit accounts for: an escape one overflowUnit, and in versions 1 and 2 it sets the
marker (R173); an extended record completes the pulse and clears the marker (R174); a SHORT byte completes
the pulse (R175). -/
def encAccount (u : RecUnit) (s : State) : Micro :=
  match u with
  | .zero => .more { s with encRes := s.encRes - 2048 }
  | .ext v =>
    if v = 0xFFFFFF then .more ({ s with encRes := s.encRes - 0xFFFFFF }.setMark true)
    else .done (s.setMark false).encComplete
  | .short _ => .done s.encComplete

/-- One record of `EncStep` (R170, R172, R179, R180): the capacity, then the `OUT_COUNT` limit, then the
sink (R219), then what the record accounts for. -/
def encUnit (u : RecUnit) (s : State) : Micro :=
  let bytes := encodeUnit u
  let len := bytes.length
  if s.arg1.toNat < s.encCount.toNat + len then .done s.encStop
  else if wordMax < s.outCount.toNat + len then .done s.encOverLimit
  else match memWrite s.outCount.toNat bytes s with
    | .error f => .stop f
    | .ok (ok, t) =>
      if ok then encAccount u { t with outCount := t.outCount + BitVec.ofNat 32 len,
                                       encCount := t.encCount + BitVec.ofNat 32 len }
      else .done t.encSinkFailed

/-- One turn of `EncStep`: the unit owed, or the end of the pulse (R170). -/
def encTurn (s : State) : Micro :=
  match s.unitOwed with
  | none => .done s.encComplete
  | some u => encUnit u s

/-- At most `fuel` turns of `EncStep`. -/
def encLoop : Nat → State → Micro
  | 0, s => .more s
  | fuel + 1, s => (encTurn s).andThen (encLoop fuel)

/-- `EncStep(ARG1)` (R170). Every escape takes one overflowUnit off the residual, so as many turns as the
residual holds units, and one more, are enough. -/
def encStep (s : State) : Out :=
  (encLoop (s.encRes.toNat / overflowUnit s.status.version + 1) { s with encCount := 0 }).out

end Sys2Proof.Machine
end

