-- ==== Sys2Proof/Machine/RecordDecode.lean ====
section
/-! DEFINITION. REC_DECODE (`41_record_decode.md`). -/

namespace Sys2Proof.Machine

/-- REC_DECODE (R146, R148). -/
def execRecDecode (s : State) : Out := pulseGate .reading decRecord s

end Sys2Proof.Machine
end

