-- ==== Sys2Proof/Machine/RecordEncode.lean ====
section
/-! DEFINITION. ENC_PULSE and ENC_DRAIN (`42_record_encode.md`). -/

namespace Sys2Proof.Machine

/-- ENC_PULSE takes its operand (R167): `ENC_RES <- ARG0; ENC_PENDING <- 1`. -/
def State.loadPulse (s : State) : State := { s with encRes := s.arg0 }.setPending true

/-- ENC_PULSE (R167): a new pulse may not start while one is pending. -/
def execEncPulse (s : State) : Out :=
  pulseGate .writing (fun s =>
    if s.status.encPending then ended .invalidArguments s else encStep s.loadPulse) s

/-- ENC_DRAIN (R168): with nothing pending it reports zeros and ends with Ok. -/
def execEncDrain (s : State) : Out :=
  pulseGate .writing (fun s =>
    if s.status.encPending then encStep s else ended .ok (s.results 0 0)) s

end Sys2Proof.Machine
end

