-- ==== Sys2Proof/Machine/RecordForms.lean ====
section
/-! DEFINITION. The record rows of the opcode table (`30_encoding.md` R83 to R89) as instructions of the
open stream (log 8): in READING, DEC takes the row that stands at the read cursor, as REC_DECODE does; in
WRITING, ENC emits the row it owes, as ENC_PULSE and ENC_DRAIN do. A row where the stream is not at it is
refused by name. In every other state the pulse commands' own checks decide (R115). -/

namespace Sys2Proof.Machine

/-- The first byte of a record sets `start` (R148); a later one does not. -/
def State.beginIfFresh (s : State) : State := if s.dec.zeros = 0 then s.beginRecord else s

/-- DEC at this unit, if it stands at the cursor. -/
def decRow (u : RecUnit) (s : State) : Option Micro :=
  match s.unitAtCursor with
  | .ok u' => if u' = u then some (decUnit u s.beginIfFresh) else none
  | .error _ => none

/-- ENC at this unit, if a pulse is pending and owes it. -/
def encRow (u : RecUnit) (s : State) : Option Micro :=
  if s.status.encPending ∧ s.unitOwed = some u then some (encUnit u s) else none

/-- A chain of n zero bytes and a closing byte, one unit after the other (R86); a command that ends inside
it leaves the rest undone. -/
def chainRow (row : RecUnit → State → Option Micro) : Nat → Byte → State → Option Micro
  | 0, b, s => row (.short b) s
  | n + 1, b, s =>
    match row .zero s with
    | some (.more t) => chainRow row n b t
    | r => r

/-- What a row answers: refused where the stream is not at it (log 8). -/
def rowOut : Option Micro → Out
  | some m => m.out
  | none => .refused .notPresented

/-- A record row in the stream that is open: DEC's reading of it, or ENC's emission of it, after the checks
of the pulse commands (R115, R146, R167). -/
def streamRow (dec enc : State → Option Micro) (s : State) : Out :=
  if s.status.state = .writing then pulseGate .writing (fun s => rowOut (enc s)) s
  else pulseGate .reading (fun s => rowOut (dec s)) s

/-- One unit as a row. -/
def unitRow (u : RecUnit) (s : State) : Out := streamRow (decRow u) (encRow u) s

/-- SHORT (R84; decode R149, encode R175). -/
def execShort (b : Byte) (s : State) : Out := unitRow (.short b) s

/-- V0ESC (R85; decode R152, encode R173): 2048 cycles of the record being read or written. -/
def execV0esc (s : State) : Out := unitRow .zero s

/-- V0CHAIN (R86; decode R152 and R153; encode R173 and R175). -/
def execV0chain (n : Nat) (b : Byte) (s : State) : Out :=
  streamRow (fun s => if n = 0 then none else chainRow decRow n b s)
    (fun s => if n = 0 then none else chainRow encRow n b s) s

/-- EXT (R87; decode R151, encode R174). The values 0 and 0xFFFFFF are the rows EXT-ZERO and EXT-OVF. -/
def execExt (v : Value24) (s : State) : Out := unitRow (.ext v) s

/-- EXT-OVF (R88; decode R151, encode R173). -/
def execExtOvf (s : State) : Out := unitRow (.ext 0xFFFFFF) s

/-- EXT-ZERO (R89; decode R151, encode R174). -/
def execExtZero (s : State) : Out := unitRow (.ext 0) s

end Sys2Proof.Machine
end

