-- ==== Sys2Proof/Machine/Scaling.lean ====
section
/-! DEFINITION. The scaler (`43_scaling.md`): SCALE_CFG (R193), SCALE_S2C and SCALE_C2S (R201). -/

namespace Sys2Proof.Machine

/-- `RoundDiv(n, D)` (R197), for D at least 1: nearest, an exact half rounded up. -/
def roundDiv (n d : Nat) : Nat := (n + d / 2) / d

/-- `SCALE_SEL` (R46, R193): machine id in bits 1:0, video id in bit 2. -/
def scaleSelOf (w : Word) : Word := (0 : BitVec 29) ++ BitVec.ofBool (cfgVid w) ++ cfgMach w

/-- SCALE_CFG latches its operands (R193). -/
def State.latchScale (s : State) : State :=
  { s with
    scaleSel := scaleSelOf s.arg0
    scaleRate := s.arg1
    scaleClock := clockRate s.par (cfgMach s.arg0) (cfgVid s.arg0)
    status := { s.status with scalerReady := true } }.finish .ok

/-- SCALE_CFG (R193). -/
def execScaleCfg (s : State) : Out :=
  if !cfgValid s.arg0 then ended .invalidArguments s
  else if s.arg1 = 0 then ended .invalidArguments s
  else .next s.latchScale

/-- Both conversions (R201), multiplying by m and dividing by d. A zero divisor is what R196 excludes
(log 12). -/
def scaleBy (m d : Word) (s : State) : Out :=
  if !s.status.scalerReady then ended .invalidArguments s
  else if d = 0 then .fault .zeroDivisor
  else
    let q := roundDiv (s.arg0.toNat * m.toNat) d.toNat
    if wordMax < q then ended .genericFailure s.raiseFault
    else ended .ok { s with res0 := BitVec.ofNat 32 q }

/-- SCALE_S2C (R194, R198): samples to cycles. -/
def execScaleS2C (s : State) : Out := scaleBy s.scaleClock s.scaleRate s

/-- SCALE_C2S (R195, R199): cycles to samples. -/
def execScaleC2S (s : State) : Out := scaleBy s.scaleRate s.scaleClock s

end Sys2Proof.Machine
end

