-- ==== Sys2Proof/Machine/Stream.lean ====
section
/-! DEFINITION. The stream commands of `40_stream.md`: OPEN_READ (R120) and the header row HDR, OPEN_WRITE
(R125), CLOSE (R132), RESET (R140) and illegal words (R142). -/

namespace Sys2Proof.Machine

/-- The checks both OPEN commands make first (R115, R120, R125): the state, then the configuration
word. -/
def openGate (work : State → Out) (s : State) : Out :=
  if s.status.state ≠ .idle ∧ s.status.state ≠ .closed then ended .invalidArguments s
  else if !cfgValid s.arg0 then ended .invalidArguments s
  else work s

/-- OPEN_READ rejects the image (R117, R118): `IN_POS <- 0`, WrongContainerFormat. -/
def State.rejectImage (s : State) : State := { s with inPos := 0 }.finish .wrongContainerFormat

/-- `RES0` of OPEN_READ (R100, R119): header bytes 12 to 15, byte 12 lowest. -/
def headerInfo (h : Header) : Word := wordOfLE [h.ver, h.mach, h.vid, h.rsv]

/-- OPEN_READ accepts a header (R119). -/
def State.acceptHeader (h : Header) (s : State) : State :=
  { s with
    streamCfg := s.arg0
    inPos := 20
    res0 := headerInfo h
    res1 := h.len
    status := { s.status with
      version := h.ver.setWidth 2
      hdrV2 := h.ver == 2
      hdrFamily := h.family == Family.alternate
      dir := .read
      state := .reading } }.finish .ok

/-- The header at the front of the input image, if the image has a valid one (R82). -/
def State.headerAtFront (s : State) : Option Header :=
  match decodeHeader s.par (s.inImg.bytesFrom 0 20) with
  | .ok (h, _) => some h
  | .error _ => none

/-- OPEN_READ (R120). -/
def execOpenRead (s : State) : Out :=
  openGate (fun s =>
    match s.headerAtFront with
    | none => .next s.rejectImage
    | some h => .next (s.acceptHeader h)) s

/-- HDR (R81, R120): the header row is what OPEN_READ accepts at the front of the image (log 10). -/
def execHdr (h : Header) (s : State) : Out :=
  openGate (fun s => if s.headerAtFront = some h then .next (s.acceptHeader h) else .refused .notPresented) s

/-- The header OPEN_WRITE writes (R123, R124). -/
def headerToWrite (w : Word) : Header where
  family := familyFor (cfgMach w)
  ver := (cfgVer w).setWidth 8
  mach := if cfgVer w = 2 then (cfgMach w).setWidth 8 else 0
  vid := if cfgVer w = 2 ∧ cfgVid w then 1 else 0
  rsv := 0
  len := 0

/-- The registers after OPEN_WRITE's header is written (R125). -/
def State.openForWriting (s : State) : State :=
  { s with
    streamCfg := s.arg0
    outCount := 20
    encRes := 0
    status := { s.status with
      version := cfgVer s.arg0
      dir := .write
      state := .writing
      encPending := false
      ovfMark := false
      discarded := false } }.finish .ok

/-- OPEN_WRITE (R125). -/
def execOpenWrite (s : State) : Out :=
  openGate (fun s =>
    match memWrite 0 (encodeHeader s.par (headerToWrite s.arg0)) { s with outImg := Memory.empty } with
    | .error f => .fault f
    | .ok (ok, t) => .next (if ok then t.openForWriting else t.finish .backendError)) s

/-- CLOSE of a write stream before its patch (R129, R130): the unfinished pulse is dropped, the body
length reported, the state CLOSED. -/
def State.closeWriting (s : State) : State :=
  { s with
    encRes := 0
    res0 := s.outCount - 20
    status := { s.status with
      discarded := s.status.encPending
      encPending := false
      state := .closed } }

/-- CLOSE (R132). The body length is a number only where `OUT_COUNT` is at least 20 (R130, log 12). -/
def execClose (s : State) : Out :=
  if s.status.state = .idle ∨ s.status.state = .closed then ended .invalidArguments s
  else if s.status.dir = .read then ended .ok (s.enter .closed)
  else if s.outCount.toNat < 20 then .fault .lengthUnderflow
  else match memWrite 16 (leBytes 4 (s.outCount.toNat - 20)) s.closeWriting with
    | .error f => .fault f
    | .ok (ok, t) => ended (if ok then .ok else .backendError) t

/-- RESET (R140, R242): every register and field at its reset value; the images, the parameters and the
environment are not touched. -/
def execReset (s : State) : Out :=
  .next { State.reset with
    inImg := s.inImg
    offered := s.offered
    outImg := s.outImg
    par := s.par
    host := s.host
    rdata := s.rdata
    sinkDraws := s.sinkDraws
    drawCount := s.drawCount }

/-- An illegal command word (R142): InvalidArguments and no other change. The word is not stored. -/
def execIllegal (_w : Word) (s : State) : Out := ended .invalidArguments s

end Sys2Proof.Machine
end

