-- ==== Sys2Proof/Machine/Dispatch.lean ====
section
/-! DEFINITION. One arm per instruction, each a direct call of its meaning. -/

namespace Sys2Proof.Machine

def exec (i : Instr) (s : State) : Host.Outcome State Fault Refusal :=
  match i with
  -- stream commands (40_stream.md)
  | .openRead => Sys2Proof.Machine.execOpenRead s
  | .openWrite => Sys2Proof.Machine.execOpenWrite s
  | .close => Sys2Proof.Machine.execClose s
  | .reset => Sys2Proof.Machine.execReset s
  | .illegal w => Sys2Proof.Machine.execIllegal w s
  -- pulse commands (41_record_decode.md, 42_record_encode.md)
  | .recDecode => Sys2Proof.Machine.execRecDecode s
  | .encPulse => Sys2Proof.Machine.execEncPulse s
  | .encDrain => Sys2Proof.Machine.execEncDrain s
  -- scaler commands (43_scaling.md)
  | .scaleCfg => Sys2Proof.Machine.execScaleCfg s
  | .scaleS2C => Sys2Proof.Machine.execScaleS2C s
  | .scaleC2S => Sys2Proof.Machine.execScaleC2S s
  -- rows of the TAP data space (30_encoding.md R81, R83)
  | .short b => Sys2Proof.Machine.execShort b s
  | .v0esc => Sys2Proof.Machine.execV0esc s
  | .v0chain n b => Sys2Proof.Machine.execV0chain n b s
  | .ext v => Sys2Proof.Machine.execExt v s
  | .extOvf => Sys2Proof.Machine.execExtOvf s
  | .extZero => Sys2Proof.Machine.execExtZero s
  | .hdr h => Sys2Proof.Machine.execHdr h s

end Sys2Proof.Machine
end

