-- ==== Sys2Proof/Machine/Window.lean ====
section
/-! DEFINITION. The host's side: the register window (`10_state.md` R27, R55), the attachment of images
(R52, R71), taking the next host access (log 4), and placing an instruction where the next step takes it
(log 11). -/

namespace Sys2Proof.Machine

/-- An access R55 defines: aligned, at an offset from 0x00 to 0x3C. -/
def windowOffset (offset : Nat) : Bool := offset % 4 == 0 && decide (offset ≤ 0x3C)

/-- The word a host read returns (R27): `CMD` and the reserved offsets read 0. -/
def readWindow (s : State) (offset : Nat) : Word :=
  match offset with
  | 0x04 => s.arg0
  | 0x08 => s.arg1
  | 0x0C => s.res0
  | 0x10 => s.res1
  | 0x14 => s.status.toWord
  | 0x18 => (BitVec.ofBool s.term).zeroExtend 32
  | 0x1C => s.streamCfg
  | 0x20 => s.scaleSel
  | 0x24 => s.scaleRate
  | 0x28 => s.scaleClock
  | 0x2C => s.encRes
  | 0x30 => s.outCount
  | 0x34 => s.inPos
  | _ => 0

/-- A host write to a register other than `CMD` (R27, R43, R55): read-only registers and reserved offsets
ignore it, and `CTRL` keeps only bit 0. -/
def writeWindow (offset : Nat) (w : Word) (s : State) : State :=
  match offset with
  | 0x04 => { s with arg0 := w }
  | 0x08 => { s with arg1 := w }
  | 0x18 => { s with term := w.getLsbD 0 }
  | _ => s

/-- What the next host access asks of the block. -/
inductive Request where
  /-- no access: the block holds its state (R233) -/
  | idle
  /-- a write to `CMD`: the instruction its word selects, and the state it starts from (R28) -/
  | command (i : Instr) (s : State)
  /-- any other access, and what comes of it -/
  | access (o : Out)

/-- The state in which a command starts. DESIGN CHOICE (log 19): an image the host has attached becomes `IN_IMG`
as the next OPEN_READ comes to read it, that is, past its checks of the state and of the configuration word
(R120). OPEN_READ then writes `IN_POS` whatever it finds, so `IN_POS ≤ IN_LEN` always holds (R26). -/
def State.deliver (i : Instr) (s : State) : State :=
  match s.offered with
  | none => s
  | some m =>
    if i = .openRead ∧ (s.status.state = .idle ∨ s.status.state = .closed) ∧ cfgValid s.arg0 = true then
      { s with inImg := m, offered := none }
    else s

/-- One access, with the state after the access is taken off the list. -/
def busRequest (op : BusOp) (s : State) : Request :=
  match op with
  | .write offset w =>
    if !windowOffset offset then .access (.refused .undefinedAccess)
    else if offset = 0 then .command (decodeCommand w) (s.deliver (decodeCommand w))
    else .access (.next (writeWindow offset w s))
  | .read offset =>
    if !windowOffset offset then .access (.refused .undefinedAccess)
    else .access (.next { s with rdata := readWindow s offset })
  | .narrow _ => .access (.refused .undefinedAccess)
  | .attachInput bytes =>
    if s.status.streamOpen .read then .access (.refused .inputInUse)
    else if wordMax < bytes.length then .access (.refused .imageTooLong)
    else .access (.next { s with offered := some (Memory.ofBytes bytes) })
  | .attachSink =>
    if s.status.streamOpen .write then .access (.refused .sinkInUse)
    else .access (.next { s with outImg := Memory.empty })

/-- The next host access (log 4). -/
def fetch (s : State) : Request :=
  match s.host with
  | [] => .idle
  | op :: rest => busRequest op { s with host := rest }

/-- The host's next access is this one. -/
def State.withNext (op : BusOp) (s : State) : State := { s with host := op :: s.host }

/-- A read stream of the given version whose next bytes are bs, and REC_DECODE as the next command
(log 11). -/
def State.withRecord (ver : BitVec 2) (bs : List Byte) (s : State) : State :=
  { s with
    inImg := Memory.ofBytes (List.replicate 20 0 ++ bs)
    inPos := 20
    term := false
    dec := DecWork.idle
    status := { s.status with state := .reading, dir := .read, version := ver } }.withNext (.write 0 3)

/-- The instruction of nbits bits with the value w stored where the next step takes it (log 11): a command
word as the host's next write to `CMD`; a header as the input image, with OPEN_READ next; record bytes at
the cursor of a read stream, with REC_DECODE next. -/
def placeWord (nbits w : Nat) (s : State) : State :=
  match rowPlace nbits w with
  | .commandWord c => s.withNext (.write 0 c)
  | .extendedRecord bs => s.withRecord 1 bs
  | .headerBytes bs =>
    { s with
      inImg := Memory.ofBytes bs
      offered := none
      arg0 := 0
      status := { s.status with state := .idle } }.withNext (.write 0 1)
  | .version0Byte bs => s.withRecord 0 bs
  | .version0Record bs => s.withRecord 0 bs

end Sys2Proof.Machine
end

