-- ==== Sys2Proof/Machine/Step.lean ====
section
/-! DEFINITION. One step: one host access, with the whole command where it is a write to `CMD`
(`00_scope.md` R5, `10_state.md` R28, `20_memory.md` R74). -/

namespace Sys2Proof.Machine

/-- One host access. With none left the block holds its state (R233). -/
def step (s : State) : Host.Outcome State Fault Refusal :=
  match fetch s with
  | .idle => .next s
  | .command i t => exec i t
  | .access o => o

/-- s with the instruction whose bits are w placed where the next step takes it (log 11). -/
def State.withFetchWord (s : State) (nbits w : Nat) : State := placeWord nbits w s

end Sys2Proof.Machine
end

