-- ==== Sys2Proof/Machine/Macro.lean ====
section
/-! DEFINITION. The host's side of a command: the assembler forms (`30_encoding.md` R101) as host accesses,
and the pseudo-instructions (R102) with their host loops, each cut off after a number of rounds (log 15). -/

namespace Sys2Proof.Machine

/-! ## Assembler forms: `W 0x04`, `W 0x08`, `W 0x00`, in this order (R101) -/

/-- `OPEN_READ cfg` (R101). -/
def asmOpenRead (cfg : Word) : List BusOp := [.write 0x04 cfg, .write 0x00 0x01]

/-- `OPEN_WRITE cfg` (R101). -/
def asmOpenWrite (cfg : Word) : List BusOp := [.write 0x04 cfg, .write 0x00 0x02]

/-- `REC_DECODE` (R101). -/
def asmRecDecode : List BusOp := [.write 0x00 0x03]

/-- `ENC_PULSE d, cap` (R101). -/
def asmEncPulse (d cap : Word) : List BusOp := [.write 0x04 d, .write 0x08 cap, .write 0x00 0x04]

/-- `ENC_DRAIN cap` (R101). -/
def asmEncDrain (cap : Word) : List BusOp := [.write 0x08 cap, .write 0x00 0x05]

/-- `CLOSE` (R101). -/
def asmClose : List BusOp := [.write 0x00 0x06]

/-- `SCALE_CFG cfg, rate` (R101). -/
def asmScaleCfg (cfg rate : Word) : List BusOp := [.write 0x04 cfg, .write 0x08 rate, .write 0x00 0x07]

/-- `SCALE_S2C samples` (R101). -/
def asmScaleS2C (samples : Word) : List BusOp := [.write 0x04 samples, .write 0x00 0x08]

/-- `SCALE_C2S cycles` (R101). -/
def asmScaleC2S (cycles : Word) : List BusOp := [.write 0x04 cycles, .write 0x00 0x09]

/-- `RESET` (R101). -/
def asmReset : List BusOp := [.write 0x00 0x0A]

/-- `TERM 1` and `TERM 0` (R102). -/
def asmTerm (t : Bool) : List BusOp := [.write 0x18 (if t then 1 else 0)]

/-! ## Running accesses -/

/-- Goes on with the next state, if there is one. -/
def outThen (o : Out) (k : State → Out) : Out :=
  match o with
  | .next s => k s
  | .fault f => .fault f
  | .refused r => .refused r

/-- These accesses, one step each, ahead of whatever the host has pending. -/
def runOps : List BusOp → State → Out
  | [], s => .next s
  | op :: rest, s => outThen (step (s.withNext op)) (runOps rest)

/-! ## Host loops (R102) -/

/-- The loop of ENCODE: `ENC_DRAIN cap` while a pulse is pending, the result is Ok and the stream is
WRITING. -/
def drainLoop : Nat → Word → State → Out
  | 0, _, s => .next s
  | fuel + 1, cap, s =>
    if s.status.encPending ∧ s.status.result = .ok ∧ s.status.state = .writing then
      outThen (runOps (asmEncDrain cap) s) (drainLoop fuel cap)
    else .next s

/-- `ENCODE d, cap` (R102). -/
def encodeMacro (fuel : Nat) (d cap : Word) (s : State) : Out :=
  outThen (runOps (asmEncPulse d cap) s) (drainLoop fuel cap)

/-- `DECODE_ALL` (R102): REC_DECODE, repeated while the result is Ok. -/
def decodeAll : Nat → State → Out
  | 0, s => .next s
  | fuel + 1, s =>
    outThen (runOps asmRecDecode s) fun t =>
      if t.status.result = .ok then decodeAll fuel t else .next t

end Sys2Proof.Machine
end

