-- ==== Sys2Proof/Safety.lean ====
section
/-! DEFINITION. What counts as a good state, and the terms the statements are written in: the invariant of
`10_state.md` R53 with the model's own clauses, agreement with the source (`60_exceptions.md` R218), and
the canonical encoder output of `30_encoding.md` R94, written from that rule and not from the encoder. -/

namespace Sys2Proof.Machine

/-! ## The invariant -/

/-- The invariant every step keeps: the five clauses of R53, and what R26, R34, R45, R52, R54, R7 to R9 and
R60 say of the other parts of the state. -/
structure Inv (s : State) : Prop where
  /-- R53: `ENC_PENDING = 0` implies `ENC_RES = 0` -/
  noResidual : s.status.encPending = false → s.encRes = 0
  /-- R53: in READING, `20 ≤ IN_POS ≤ IN_LEN` -/
  cursor : s.status.state = .reading → 20 ≤ s.inPos.toNat ∧ s.inPos.toNat ≤ s.inImg.len
  /-- R26: `IN_POS ≤ IN_LEN` always holds, in every state -/
  cursorInside : s.inPos.toNat ≤ s.inImg.len
  /-- R53: in an open write stream, `OUT_COUNT = |OUT_IMG| ≥ 20` -/
  counted : s.status.dir = .write →
    s.status.state = .writing ∨ s.status.state = .interrupted ∨ s.status.state = .error →
    s.outCount.toNat = s.outImg.len ∧ 20 ≤ s.outCount.toNat
  /-- R53: `STATUS.VERSION ≤ 2` -/
  version : s.status.version.toNat ≤ 2
  /-- R53: `SCALER_READY = 1` implies `SCALE_RATE ≥ 1` and `SCALE_CLOCK ≥ 1` -/
  scaler : s.status.scalerReady = true → 1 ≤ s.scaleRate.toNat ∧ 1 ≤ s.scaleClock.toNat
  /-- R34: READING is a read stream -/
  readDir : s.status.state = .reading → s.status.dir = .read
  /-- R34: WRITING is a write stream -/
  writeDir : s.status.state = .writing → s.status.dir = .write
  /-- R44, R45: a latched configuration word is a valid one -/
  config : cfgValid s.streamCfg = true
  /-- R8, R9: the parameters are as a model takes them -/
  params : s.par.wf = true
  /-- the images are in canonical form (log 6) -/
  inCanonical : s.inImg.wf = true
  outCanonical : s.outImg.wf = true
  /-- R52, R60: an image has at most 0xFFFFFFFF bytes -/
  inBound : s.inImg.len ≤ wordMax
  outBound : s.outImg.len ≤ wordMax
  /-- an image attached and not yet read is a canonical image of at most 0xFFFFFFFF bytes (R52, log 19) -/
  offeredImage : s.offered.all (fun m => m.wf && decide (m.len ≤ wordMax)) = true
  /-- R54: what lives inside one command is not there between commands (log 9) -/
  decIdle : s.dec = DecWork.idle
  encIdle : s.encCount = 0

/-- A claim of agreement with the source assumes `FAULT = 0` (R218). -/
abbrev Agrees (s : State) : Prop := s.status.fault = false

/-! ## Conditions a command runs under -/

/-- The stream is in this state and `TERM` is 0. -/
abbrev Ready (s : State) (st : StreamState) : Prop := s.status.state = st ∧ s.term = false

/-- The input image holds byte b at k bytes past the cursor. -/
abbrev HasAt (s : State) (k : Nat) (b : Byte) : Prop := s.inImg.byte? (s.inPos.toNat + k) = some b

/-- A stream may be opened: IDLE or CLOSED (R115). -/
abbrev MayOpen (s : State) : Prop := s.status.state = .idle ∨ s.status.state = .closed

/-- `CfgValid(w)` (R45), over the word's value: version at most 2, machine at most 2, bits 31:6 zero. -/
abbrev CfgLegal (w : Word) : Prop := w.toNat % 4 ≤ 2 ∧ w.toNat / 4 % 4 ≤ 2 ∧ w.toNat < 64

/-- The next n sink writes succeed (R20). -/
abbrev SinkAccepts (s : State) (n : Nat) : Prop := ∀ k, k < n → s.upcomingDraw k = true

/-- The write stream has room for n more bytes, and `OUT_COUNT` counts the image's bytes (R53, R179). -/
abbrev SinkRoom (s : State) (n : Nat) : Prop :=
  s.outCount.toNat = s.outImg.len ∧ s.outCount.toNat + n ≤ wordMax

/-- ENC can emit a record of n bytes within this command (R170): a pulse is pending and the record fits
the capacity left and the counter. -/
abbrev CanEmit (s : State) (n : Nat) : Prop :=
  Ready s .writing ∧ s.status.encPending = true ∧ s.encCount.toNat + n ≤ s.arg1.toNat ∧ SinkRoom s n

/-- The state after `records` sink writes appended bs (R16, R179). -/
def appended (s : State) (bs : List Byte) (records : Nat) : State :=
  { s with
    outImg := s.outImg.append bs
    outCount := s.outCount + BitVec.ofNat 32 bs.length }.skipDraws records

/-! ## Durations and canonical records (R94) -/

/-- Cycles of a short residual after rounding: up to a multiple of 8, at most 2040 (R185). -/
def roundedCycles (r : Nat) : Nat := min (8 * ((r + 7) / 8)) 2040

/-- The SHORT byte of a residual (R175). -/
def recordByte (r : Nat) : Byte := BitVec.ofNat 8 (roundedCycles r / 8)

/-- Escapes of a pulse of d cycles (R94). -/
def escapes (ver : BitVec 2) (d : Nat) : Nat := if ver = 0 then d / 2048 else d / 16777215

/-- What the escapes leave (R94). -/
def remainder (ver : BitVec 2) (d : Nat) : Nat := if ver = 0 then d % 2048 else d % 16777215

/-- In versions 1 and 2 a pulse that ends with nothing left owes the closing zero record if an escape came
before it, in this pulse or earlier (R94). -/
abbrev owesZero (ver : BitVec 2) (d : Nat) (mark : Bool) : Prop :=
  ver ≠ 0 ∧ remainder ver d = 0 ∧ (1 ≤ escapes ver d ∨ mark = true)

/-- The closing record is an extended one (R94). -/
abbrev endsExtended (ver : BitVec 2) (d : Nat) (mark : Bool) : Prop :=
  2048 ≤ remainder ver d ∨ owesZero ver d mark

/-- One escape (R171). -/
def escapeBytes (ver : BitVec 2) : List Byte := if ver = 0 then [0] else [0, 0xFF, 0xFF, 0xFF]

/-- Cycles one escape accounts for (R171). -/
def escapeCycles (ver : BitVec 2) : Nat := if ver = 0 then 2048 else 16777215

/-- The marker after k escapes (R173): version 0 never touches it. -/
def escapedMark (ver : BitVec 2) (k : Nat) (mark : Bool) : Bool :=
  if ver = 0 then mark else mark || decide (1 ≤ k)

/-- The closing record of a pulse, or none (R94). -/
def closingBytes (ver : BitVec 2) (d : Nat) (mark : Bool) : List Byte :=
  if endsExtended ver d mark then 0 :: leBytes 3 (remainder ver d)
  else if remainder ver d = 0 then []
  else [recordByte (remainder ver d)]

/-- What the encoder with unbounded capacity emits for d cycles with the marker at entry (R94). -/
def canonicalBytes (ver : BitVec 2) (d : Nat) (mark : Bool) : List Byte :=
  (List.replicate (escapes ver d) (escapeBytes ver)).flatten ++ closingBytes ver d mark

/-- How many records that is: one sink write each. -/
def canonicalRecords (ver : BitVec 2) (d : Nat) (mark : Bool) : Nat :=
  escapes ver d + if closingBytes ver d mark = [] then 0 else 1

/-- The marker afterwards (R36, R173, R174): version 0 never touches it; an extended record clears it;
otherwise an escape leaves it set. -/
def canonicalMark (ver : BitVec 2) (d : Nat) (mark : Bool) : Bool :=
  if ver = 0 then mark
  else if endsExtended ver d mark then false
  else mark || decide (1 ≤ escapes ver d)

/-! ## Reading records back (R185) -/

/-- The durations of successive records in ADD mode, at most `fuel` of them, up to the first that is cut
off (R84, R86, R87). -/
def recordCycles (ver : BitVec 2) : Nat → List Byte → List Nat
  | 0, _ => []
  | fuel + 1, bs =>
    match decodeRecord ver bs with
    | .error _ => []
    | .ok (i, rest) =>
      match i with
      | .short b => 8 * b.toNat :: recordCycles ver fuel rest
      | .v0chain n b => (2048 * n + 8 * b.toNat) :: recordCycles ver fuel rest
      | .ext v => v.toNat :: recordCycles ver fuel rest
      | .extOvf => 16777215 :: recordCycles ver fuel rest
      | .extZero => 0 :: recordCycles ver fuel rest
      | .v0esc | .hdr _ | .illegal _ => []
      | .openRead | .openWrite | .recDecode | .encPulse | .encDrain => []
      | .close | .scaleCfg | .scaleS2C | .scaleC2S | .reset => []

end Sys2Proof.Machine
end

