-- ==== Sys2Proof/Certificates/Slice0/Obligations.lean ====
section
/-! DEFINITION. The statements for the provers. Each docstring names the rule of `spec/` it formalises, or
the log entry whose choice it states. States are arbitrary unless a premise says otherwise. -/

open Sys2Proof Sys2Proof.Machine

/-! ## Encodings -/

/-- R97, R98: a command word selects the command of the opcode map iff bits 31:8 are zero and `OPC` is 1 to
10; every other word is illegal. -/
def Obligations.OpcodeMapSelectsCommands : Prop :=
  ∀ w : Word,
    (∀ p ∈ [(1, Instr.openRead), (2, .openWrite), (3, .recDecode), (4, .encPulse), (5, .encDrain),
        (6, .close), (7, .scaleCfg), (8, .scaleS2C), (9, .scaleC2S), (10, .reset)],
      (w.extractLsb' 8 24 = 0 ∧ (w.extractLsb' 0 8).toNat = p.1) ↔ decodeCommand w = p.2) ∧
    ((w.extractLsb' 8 24 ≠ 0 ∨ (w.extractLsb' 0 8).toNat = 0 ∨ 10 < (w.extractLsb' 0 8).toNat) ↔
      decodeCommand w = .illegal w)

/-- Decoding the code of a well-formed instruction, in a space that holds it and with any bytes after it,
gives it back, for parameters whose magics differ (R8, R81, R83, R90, R97). -/
def Obligations.DecodeOfEncodeIsTheInstruction : Prop :=
  ∀ (p : Params) (i : Instr) (sp : Space) (rest : List Byte),
    p.magicA ≠ p.magicB → i.wf = true → i.inSpace sp = true →
    decode p sp ((encode p i).followedBy rest) = .ok (i, if sp = .command then [] else rest)

/-- Whatever the decoder accepts is a well-formed instruction of that space, and its code followed by the
bytes handed back is what was read (R80, R90). -/
def Obligations.EncodeOfDecodeIsTheCode : Prop :=
  ∀ (p : Params) (sp : Space) (c : Code) (i : Instr) (rest : List Byte),
    decode p sp c = .ok (i, rest) →
    i.wf = true ∧ i.inSpace sp = true ∧ (encode p i).followedBy rest = c

/-- Words and bytes written out from the spec's tables decode as the tables say (R84 to R89, R97, R159,
R187). -/
def Obligations.SampleCodesDecode : Prop :=
  decodeCommand 0x00000003 = .recDecode ∧ decodeCommand 0x0000000A = .reset ∧
  decodeCommand 0x00000101 = .illegal 0x00000101 ∧
  decode Params.default (.record 1) (.bytes [0x05]) = .ok (.short 0x05, []) ∧
  decode Params.default (.record 0) (.bytes [0x00, 0x00, 0x71]) = .ok (.v0chain 2 0x71, []) ∧
  decode Params.default (.record 1) (.bytes [0x00, 0x88, 0x13, 0x00]) = .ok (.ext 5000, []) ∧
  decode Params.default (.record 2) (.bytes [0x00, 0xFF, 0xFF, 0xFF, 0x01]) = .ok (.extOvf, [0x01]) ∧
  decode Params.default (.record 1) (.bytes [0x00, 0x00, 0x00, 0x00]) = .ok (.extZero, [])

/-! ## A step -/

/-- R28: a host write of a word to `CMD` runs the command the word selects, from the state in which that
access is done; a host read of `CMD` returns 0 (the list of accesses and the latch `rdata` are the model's,
log 4 and 5). An OPEN_READ that passes its checks of the state and of the configuration word reads the image
the host attached last, as `IN_IMG` from then on (R120, R243); that the image waits until then is the model's
choice, log 19. -/
def Obligations.StepRunsTheDecodedCommand : Prop :=
  ∀ (s : State) (w : Word) (rest : List BusOp),
    (s.host = .write 0 w :: rest →
      step s =
        (let reads := decodeCommand w = .openRead ∧ MayOpen s ∧ CfgLegal s.arg0
         exec (decodeCommand w) { s with
           host := rest
           inImg := if reads then s.offered.getD s.inImg else s.inImg
           offered := if reads then none else s.offered })) ∧
    (s.host = .read 0 :: rest → step s = .next { s with host := rest, rdata := 0 })

/-- REC_DECODE runs the record row that stands at the cursor: where the bytes from `IN_POS` on decode to a
row, the command and the row do the same (R83, R148; how a row runs is the model's choice, log 8). -/
def Obligations.RecDecodeRunsTheRowAtTheCursor : Prop :=
  ∀ (s : State) (i : Instr) (rest : List Byte),
    Ready s .reading → s.inImg.len ≤ wordMax → s.dec = DecWork.idle →
    s.inPos.toNat ≤ s.inImg.len →
    decodeRecord s.status.version
      (s.inImg.bytesFrom s.inPos.toNat (s.inImg.len - s.inPos.toNat)) = .ok (i, rest) →
    exec .recDecode s = exec i s

/-- R27, R55: a host read returns the register the map has at its offset; `CMD` and the reserved offsets
read 0; a host write reaches `ARG0`, `ARG1` and `TERM` only. With no access pending the block holds its
state (R233; the list of accesses and the latch `rdata` are the model's, log 4 and 5). -/
def Obligations.WindowFollowsTheRegisterMap : Prop :=
  (∀ (s : State) (rest : List BusOp), ∀ p ∈
      [(0x00, (0 : Word)), (0x04, s.arg0), (0x08, s.arg1), (0x0C, s.res0), (0x10, s.res1),
        (0x14, s.status.toWord), (0x18, if s.term then 1 else 0), (0x1C, s.streamCfg),
        (0x20, s.scaleSel), (0x24, s.scaleRate), (0x28, s.scaleClock), (0x2C, s.encRes),
        (0x30, s.outCount), (0x34, s.inPos), (0x38, 0), (0x3C, 0)],
    s.host = .read p.1 :: rest → step s = .next { s with host := rest, rdata := p.2 }) ∧
  (∀ (s : State) (w : Word) (rest : List BusOp),
    (s.host = .write 0x04 w :: rest → step s = .next { s with host := rest, arg0 := w }) ∧
    (s.host = .write 0x08 w :: rest → step s = .next { s with host := rest, arg1 := w }) ∧
    (s.host = .write 0x18 w :: rest →
      step s = .next { s with host := rest, term := decide (w.toNat % 2 = 1) }) ∧
    (∀ o ∈ [0x0C, 0x10, 0x14, 0x1C, 0x20, 0x24, 0x28, 0x2C, 0x30, 0x34, 0x38, 0x3C],
      s.host = .write o w :: rest → step s = .next { s with host := rest })) ∧
  (∀ s : State, s.host = [] → step s = .next s)

/-- R55, R67: only aligned 32-bit accesses at offsets 0x00 to 0x3C are defined; any other is refused (U22;
that it is a refusal of the step is deduced, log 14). -/
def Obligations.UndefinedAccessesAreRefused : Prop :=
  ∀ (s : State) (o : Nat) (w : Word) (rest : List BusOp),
    ((o % 4 ≠ 0 ∨ 0x3C < o) → s.host = .write o w :: rest → step s = .refused .undefinedAccess) ∧
    ((o % 4 ≠ 0 ∨ 0x3C < o) → s.host = .read o :: rest → step s = .refused .undefinedAccess) ∧
    (s.host = .narrow o :: rest → step s = .refused .undefinedAccess)

/-- R52, R71, R234: the host attaches an input image of at most 0xFFFFFFFF bytes, or a fresh sink; while a
read stream uses the image, or a write stream the sink, the attachment is refused (log 13). An attached image
waits for the next OPEN_READ that reads one (log 19). -/
def Obligations.AttachmentsRespectHostDuties : Prop :=
  ∀ (s : State) (bs : List Byte) (rest : List BusOp),
    (s.host = .attachInput bs :: rest →
      step s =
        if s.status.state = .reading ∨
            ((s.status.state = .interrupted ∨ s.status.state = .error) ∧ s.status.dir = .read) then
          .refused .inputInUse
        else if wordMax < bs.length then .refused .imageTooLong
        else .next { s with host := rest, offered := some (Memory.ofBytes bs) }) ∧
    (s.host = .attachSink :: rest →
      step s =
        if s.status.state = .writing ∨
            ((s.status.state = .interrupted ∨ s.status.state = .error) ∧ s.status.dir = .write) then
          .refused .sinkInUse
        else .next { s with host := rest, outImg := Memory.empty })

/-! ## Status and reset -/

/-- R31, R33, R215: the fields of `STATUS` and their places; the reserved bits 15 and 31:18 read 0; the numbers
of the ten result codes and of the six stream states. -/
def Obligations.StatusFieldsHaveTheirPlaces : Prop :=
  (∀ t : Status,
    t.toWord.extractLsb' 0 4 = t.result.code ∧ t.toWord.extractLsb' 4 3 = t.state.code ∧
    t.toWord.getLsbD 7 = decide (t.dir = .write) ∧ t.toWord.getLsbD 8 = t.encPending ∧
    t.toWord.getLsbD 9 = t.ovfMark ∧ t.toWord.getLsbD 10 = t.scalerReady ∧
    t.toWord.getLsbD 11 = t.hdrV2 ∧ t.toWord.getLsbD 12 = t.hdrFamily ∧
    t.toWord.getLsbD 13 = t.discarded ∧ t.toWord.getLsbD 14 = t.fault ∧
    t.toWord.getLsbD 15 = false ∧ t.toWord.extractLsb' 16 2 = t.version ∧
    t.toWord.extractLsb' 18 14 = 0) ∧
  (∀ p ∈ [(ResultCode.ok, 0), (.genericFailure, 1), (.outOfMemory, 2), (.backendUnavailable, 3),
      (.fileNotFound, 4), (.backendError, 5), (.endOfStream, 6), (.interrupted, 7),
      (.invalidArguments, 8), (.wrongContainerFormat, 9)], p.1.code.toNat = p.2) ∧
  (∀ p ∈ [(StreamState.idle, 0), (.reading, 1), (.writing, 2), (.closed, 3), (.interrupted, 4),
      (.error, 5)], p.1.code.toNat = p.2)

/-- R58, R241: after power-on reset every register of the window reads 0. -/
def Obligations.EveryRegisterReadsZeroAfterReset : Prop :=
  ∀ o, windowOffset o = true → readWindow State.reset o = 0

/-- R140, R242: RESET, in every state, leaves every register and field at its power-on value, and the
images, the parameters and the environment as they were; the sink is not written. (What it does to the
model's own fields is the model's choice: log 1, 4, 5, 9 and 19.) -/
def Obligations.ResetClearsEveryRegisterAndKeepsTheImages : Prop :=
  ∀ s : State, ∃ t, exec .reset s = .next t ∧
    (∀ o, windowOffset o = true → readWindow t o = 0) ∧
    t.status = State.reset.status ∧ t.dec = DecWork.idle ∧ t.encCount = 0 ∧
    t.inImg = s.inImg ∧ t.offered = s.offered ∧ t.outImg = s.outImg ∧ t.par = s.par ∧
    t.host = s.host ∧
    t.rdata = s.rdata ∧ t.sinkDraws = s.sinkDraws ∧ t.drawCount = s.drawCount

/-! ## Stream commands -/

/-- R120: OPEN_READ, whole: the state, then the configuration word, then length, magic and version of the
image; on success the latched configuration, the flags, the cursor and the reported header bytes. -/
def Obligations.OpenReadFollowsItsRule : Prop :=
  ∀ s : State, s.par.magicA ≠ s.par.magicB →
    exec .openRead s =
      (let at_ := fun k => ((s.inImg.byte? k).getD 0).toNat
       let magic := s.inImg.bytesFrom 0 12
       if ¬ MayOpen s ∨ ¬ CfgLegal s.arg0 then
         .next { s with status := { s.status with result := .invalidArguments } }
       else if s.inImg.len < 20 ∨ (magic ≠ s.par.magicA.toList ∧ magic ≠ s.par.magicB.toList) ∨
           2 < at_ 12 then
         .next { s with inPos := 0, status := { s.status with result := .wrongContainerFormat } }
       else
         .next { s with
           streamCfg := s.arg0
           inPos := 20
           res0 := BitVec.ofNat 32 (at_ 12 + 256 * at_ 13 + 65536 * at_ 14 + 16777216 * at_ 15)
           res1 := BitVec.ofNat 32 (at_ 16 + 256 * at_ 17 + 65536 * at_ 18 + 16777216 * at_ 19)
           status := { s.status with
             result := .ok
             state := .reading
             dir := .read
             version := BitVec.ofNat 2 (at_ 12)
             hdrV2 := decide (at_ 12 = 2)
             hdrFamily := decide (magic = s.par.magicB.toList) } })

/-- HDR, whole: where the stream may not be opened, or the configuration word is not legal, it ends with
InvalidArguments as OPEN_READ does (R115, R120); where the image begins with the bytes of this header and its
version is legal, it leaves what OPEN_READ leaves on accepting it (R119); where the image does not, the row is
refused by name. That the row is an OPEN_READ of this header, and that it is refused elsewhere, is the model's
choice (log 10). -/
def Obligations.HeaderRowIsAcceptedAtTheFrontOfTheImage : Prop :=
  ∀ (s : State) (h : Header), s.par.magicA ≠ s.par.magicB →
    (h.ver.toNat ≤ 2 → s.inImg.bytesFrom 0 20 = encodeHeader s.par h →
      exec (.hdr h) s = exec .openRead s) ∧
    exec (.hdr h) s =
      (if ¬ MayOpen s ∨ ¬ CfgLegal s.arg0 then
         .next { s with status := { s.status with result := .invalidArguments } }
       else if h.ver.toNat ≤ 2 ∧ s.inImg.bytesFrom 0 20 = encodeHeader s.par h then
         .next { s with
           streamCfg := s.arg0
           inPos := 20
           res0 := BitVec.ofNat 32
             (h.ver.toNat + 256 * h.mach.toNat + 65536 * h.vid.toNat + 16777216 * h.rsv.toNat)
           res1 := h.len
           status := { s.status with
             result := .ok
             state := .reading
             dir := .read
             version := BitVec.ofNat 2 h.ver.toNat
             hdrV2 := decide (h.ver = 2)
             hdrFamily := decide (h.family = .alternate) } }
       else .refused .notPresented)

/-- R123, R125: OPEN_WRITE, whole: the state, then the configuration word, then a fresh image with the
20-byte header in one sink write; if the sink rejects it, BackendError, an empty image and no register
changed. -/
def Obligations.OpenWriteFollowsItsRule : Prop :=
  ∀ s : State,
    exec .openWrite s =
      (let ver := s.arg0.toNat % 4
       let mach := s.arg0.toNat / 4 % 4
       let vid := s.arg0.toNat / 16 % 2
       let header : List Byte :=
         (if mach = 2 then s.par.magicB else s.par.magicA).toList ++
           [BitVec.ofNat 8 ver, if ver = 2 then BitVec.ofNat 8 mach else 0,
            if ver = 2 then BitVec.ofNat 8 vid else 0, 0, 0, 0, 0, 0]
       if ¬ MayOpen s ∨ ¬ CfgLegal s.arg0 then
         .next { s with status := { s.status with result := .invalidArguments } }
       else if s.upcomingDraw 0 = false then
         .next ({ s with
           outImg := Memory.empty
           status := { s.status with result := .backendError } }.skipDraws 1)
       else
         .next ({ s with
           outImg := Memory.ofBytes header
           streamCfg := s.arg0
           outCount := 20
           encRes := 0
           status := { s.status with
             result := .ok
             state := .writing
             dir := .write
             version := BitVec.ofNat 2 ver
             encPending := false
             ovfMark := false
             discarded := false } }.skipDraws 1))

/-- R132: CLOSE, whole, wherever `OUT_COUNT` and the output image hold a header if the stream is a write
stream (R53): refused in IDLE and CLOSED; a read stream is only closed; a write stream drops its pending
pulse, reports `OUT_COUNT - 20` and patches it at offset 16, which needs a seekable sink and its draw. -/
def Obligations.CloseFollowsItsRule : Prop :=
  ∀ s : State,
    (s.status.dir = .write → 20 ≤ s.outCount.toNat ∧ 20 ≤ s.outImg.len) →
    exec .close s =
      (let length := s.outCount.toNat - 20
       let patched := s.par.sinkSeekable && s.upcomingDraw 0
       if s.status.state = .idle ∨ s.status.state = .closed then
         .next { s with status := { s.status with result := .invalidArguments } }
       else if s.status.dir = .read then
         .next { s with status := { s.status with result := .ok, state := .closed } }
       else
         .next ({ s with
           encRes := 0
           res0 := BitVec.ofNat 32 length
           outImg := if patched then s.outImg.patch 16 (leBytes 4 length) else s.outImg
           status := { s.status with
             result := if patched then .ok else .backendError
             state := .closed
             discarded := s.status.encPending
             encPending := false } }.skipDraws 1))

/-- CLOSE changes no byte of either image but bytes 16 to 19 of the output image, and neither length, where
the output image is canonical and holds a header or the stream is a read stream (R131, R133). -/
def Obligations.CloseWritesOnlyTheLengthField : Prop :=
  ∀ s t : State, s.outImg.wf = true → (s.status.dir = .write → 20 ≤ s.outImg.len) →
    exec .close s = .next t →
    t.inImg = s.inImg ∧ t.outImg.len = s.outImg.len ∧
    (∀ a, a < 16 ∨ 20 ≤ a → t.outImg.byte? a = s.outImg.byte? a)

/-- R142: a write to `CMD` of a word the opcode map does not select changes only `STATUS.RESULT`, in every
state. -/
def Obligations.IllegalWordChangesOnlyTheResult : Prop :=
  ∀ (s : State) (w : Word) (rest : List BusOp),
    w.extractLsb' 8 24 ≠ 0 ∨ (w.extractLsb' 0 8).toNat = 0 ∨ 10 < (w.extractLsb' 0 8).toNat →
    s.host = .write 0 w :: rest →
    step s =
      .next { s with host := rest, status := { s.status with result := .invalidArguments } } ∧
    exec (.illegal w) s = .next { s with status := { s.status with result := .invalidArguments } }

/-- R115: every entry of the acceptance table that is not "run", with no change but `STATUS.RESULT`. -/
def Obligations.StateTableRefusesByResult : Prop :=
  ∀ s : State,
    (s.status.state ≠ .idle → s.status.state ≠ .closed → ∀ i ∈ [Instr.openRead, .openWrite],
      exec i s = .next { s with status := { s.status with result := .invalidArguments } }) ∧
    (s.status.state = .interrupted → ∀ i ∈ [Instr.recDecode, .encPulse, .encDrain],
      exec i s = .next { s with status := { s.status with result := .interrupted } }) ∧
    (s.status.state = .error → ∀ i ∈ [Instr.recDecode, .encPulse, .encDrain],
      exec i s = .next { s with status := { s.status with result := .genericFailure } }) ∧
    (s.status.state = .idle ∨ s.status.state = .closed ∨ s.status.state = .writing →
      exec .recDecode s =
        .next { s with status := { s.status with result := .invalidArguments } }) ∧
    (s.status.state = .idle ∨ s.status.state = .closed ∨ s.status.state = .reading →
      ∀ i ∈ [Instr.encPulse, .encDrain],
        exec i s = .next { s with status := { s.status with result := .invalidArguments } }) ∧
    (s.status.state = .idle ∨ s.status.state = .closed →
      exec .close s = .next { s with status := { s.status with result := .invalidArguments } })

/-- R147, R169, R223: with TERM set, a pulse command that its state admits goes to INTERRUPTED, ends with
Interrupted, and changes nothing else. -/
def Obligations.TermCancelsThePulseCommands : Prop :=
  ∀ s : State, s.term = true →
    (s.status.state = .reading →
      exec .recDecode s =
        .next { s with status := { s.status with result := .interrupted, state := .interrupted } }) ∧
    (s.status.state = .writing → ∀ i ∈ [Instr.encPulse, .encDrain],
      exec i s =
        .next { s with status := { s.status with result := .interrupted, state := .interrupted } })

/-- R143: a command that ends with InvalidArguments changed only `STATUS.RESULT`, wherever `IN_LEN` is within
32 bits (R52). -/
def Obligations.RefusalLeavesNoTrace : Prop :=
  ∀ (i : Instr) (s t : State), i.inSpace .command = true → s.inImg.len ≤ wordMax →
    exec i s = .next t →
    t.status.result = .invalidArguments →
    t = { s with status := { s.status with result := .invalidArguments } }

/-! ## Decoding records

What DEC holds after the command is not visible (R54), so these statements leave it open (`hidden`); that it
is `DecWork.idle` is the model's choice (log 9), which the invariant states. -/

/-- R149: a first byte that is not zero, in any version, is one byte of 8·b cycles, form 1. -/
def Obligations.ShortRecordDecodes : Prop :=
  ∀ (s : State) (b : Byte),
    Ready s .reading → s.inImg.len ≤ wordMax → HasAt s 0 b → b ≠ 0 →
    ∃ hidden, exec .recDecode s =
      .next { s with
        inPos := s.inPos + 1
        res0 := BitVec.ofNat 32 (8 * b.toNat)
        res1 := 0x01000001
        dec := hidden
        status := { s.status with result := .ok } }

/-- R151: in versions 1 and 2 a zero byte and three bytes are their 24-bit little-endian value, four bytes,
form 3. -/
def Obligations.ExtendedRecordDecodes : Prop :=
  ∀ (s : State) (b1 b2 b3 : Byte),
    Ready s .reading → s.inImg.len ≤ wordMax → s.status.version ≠ 0 →
    HasAt s 0 0 → HasAt s 1 b1 → HasAt s 2 b2 → HasAt s 3 b3 →
    ∃ hidden, exec .recDecode s =
      .next { s with
        inPos := s.inPos + 4
        res0 := BitVec.ofNat 32 (b1.toNat + 256 * b2.toNat + 65536 * b3.toNat)
        res1 := 0x03000004
        dec := hidden
        status := { s.status with result := .ok } }

/-- R152: in version 0, ADD mode, n zero bytes and a non-zero byte are 2048·n + 8·b cycles, n+1 bytes, form 2,
as long as the zero bytes stay within the 32-bit accumulator (R157). -/
def Obligations.ChainDecodesByAdding : Prop :=
  ∀ (s : State) (n : Nat) (b : Byte),
    Ready s .reading → s.inImg.len ≤ wordMax → s.status.version = 0 →
    s.streamCfg.getLsbD 5 = false → 1 ≤ n → n ≤ 2097151 →
    (∀ k, k < n → HasAt s k 0) → HasAt s n b → b ≠ 0 →
    ∃ hidden, exec .recDecode s =
      .next { s with
        inPos := s.inPos + BitVec.ofNat 32 (n + 1)
        res0 := BitVec.ofNat 32 (2048 * n + 8 * b.toNat)
        res1 := BitVec.ofNat 32 (n + 1 + 2 * 16777216)
        dec := hidden
        status := { s.status with result := .ok } }

/-- R153: in version 0, OVERWRITE mode, n zero bytes and a non-zero byte are 8·b cycles, n+1 bytes (saturating
at 0xFFFFFF), form 2. -/
def Obligations.ChainDecodesByOverwriting : Prop :=
  ∀ (s : State) (n : Nat) (b : Byte),
    Ready s .reading → s.inImg.len ≤ wordMax → s.status.version = 0 →
    s.streamCfg.getLsbD 5 = true → 1 ≤ n →
    (∀ k, k < n → HasAt s k 0) → HasAt s n b → b ≠ 0 →
    ∃ hidden, exec .recDecode s =
      .next { s with
        inPos := s.inPos + BitVec.ofNat 32 (n + 1)
        res0 := BitVec.ofNat 32 (8 * b.toNat)
        res1 := BitVec.ofNat 32 (min (n + 1) 0xFFFFFF + 2 * 16777216)
        dec := hidden
        status := { s.status with result := .ok } }

/-- R150: at the end of the image REC_DECODE ends with EndOfStream, with `RES0` and `RES1` zero and the cursor
where it was. -/
def Obligations.EndOfImageIsEndOfStream : Prop :=
  ∀ s : State,
    Ready s .reading → s.inPos.toNat = s.inImg.len →
    ∃ hidden, exec .recDecode s =
      .next { s with
        res0 := 0
        res1 := 0
        dec := hidden
        status := { s.status with result := .endOfStream } }

/-- R155: after EndOfStream the cursor is at the end, the stream stays in READING, and every later REC_DECODE
with TERM clear ends with EndOfStream and `RES1 = 0`. -/
def Obligations.EndOfStreamPersists : Prop :=
  ∀ s t : State,
    Ready s .reading → s.inImg.len ≤ wordMax → exec .recDecode s = .next t →
    t.status.result = .endOfStream →
    t.inPos.toNat = t.inImg.len ∧ t.status.state = .reading ∧
    exec .recDecode t = .next { t with res1 := 0 }

/-- R156: where the image ends inside a record, the bytes left are consumed and counted, the duration is
lost, and the result is EndOfStream: in versions 1 and 2 with fewer than three bytes after the zero byte; in
version 0 with only zero bytes left (in ADD mode, within the accumulator, R157). -/
def Obligations.TruncatedRecordIsEndOfStream : Prop :=
  ∀ s : State,
    Ready s .reading → s.inImg.len ≤ wordMax → s.inPos.toNat < s.inImg.len →
    ((s.status.version ≠ 0 ∧ HasAt s 0 0 ∧ s.inImg.len < s.inPos.toNat + 4) ∨
      (s.status.version = 0 ∧ (∀ k, s.inPos.toNat + k < s.inImg.len → HasAt s k 0) ∧
        (s.streamCfg.getLsbD 5 = false → s.inImg.len - s.inPos.toNat ≤ 2097151))) →
    ∃ hidden, exec .recDecode s =
      .next { s with
        inPos := BitVec.ofNat 32 s.inImg.len
        res0 := 0
        res1 := BitVec.ofNat 32 (min (s.inImg.len - s.inPos.toNat) 0xFFFFFF)
        dec := hidden
        status := { s.status with result := .endOfStream } }

/-- R157: in version 0, ADD mode, the 2097152nd zero byte of one record sets FAULT, goes to ERROR and ends
with GenericFailure, with the cursor past that byte and `RES0` and `RES1` unchanged. -/
def Obligations.AccumulatorOverflowFaults : Prop :=
  ∀ s : State,
    Ready s .reading → s.inImg.len ≤ wordMax → s.status.version = 0 →
    s.streamCfg.getLsbD 5 = false → (∀ k, k < 2097152 → HasAt s k 0) →
    ∃ hidden, exec .recDecode s =
      .next { s with
        inPos := s.inPos + 2097152
        dec := hidden
        status := { s.status with result := .genericFailure, state := .error, fault := true } }

/-- R145: what REC_DECODE never changes, whatever it ends with: the output image, the encoder's and the
scaler's registers, the operands, the configuration, and every flag but RESULT, STATE and FAULT. -/
def Obligations.DecoderFrame : Prop :=
  ∀ s t : State, exec .recDecode s = .next t →
    t = { s with
      inPos := t.inPos
      res0 := t.res0
      res1 := t.res1
      dec := t.dec
      status := { s.status with
        result := t.status.result, state := t.status.state, fault := t.status.fault } }

/-! ## Encoding pulses

That the hidden byte count `encCount` is back at 0 after a command is the model's choice (log 9). -/

/-- R94, R165, R170, R177: with capacity, counter room and a willing sink, ENC_PULSE appends exactly the
canonical records of `ARG0`, completes the pulse, and reports the bytes appended and a residual of 0. -/
def Obligations.EncPulseEmitsTheCanonicalRecords : Prop :=
  ∀ s : State,
    Ready s .writing → s.status.encPending = false →
    (canonicalBytes s.status.version s.arg0.toNat s.status.ovfMark).length ≤ s.arg1.toNat →
    SinkRoom s (canonicalBytes s.status.version s.arg0.toNat s.status.ovfMark).length →
    SinkAccepts s (canonicalRecords s.status.version s.arg0.toNat s.status.ovfMark) →
    exec .encPulse s =
      .next { appended s (canonicalBytes s.status.version s.arg0.toNat s.status.ovfMark)
          (canonicalRecords s.status.version s.arg0.toNat s.status.ovfMark) with
        encRes := 0
        encCount := 0
        res0 := BitVec.ofNat 32
          (canonicalBytes s.status.version s.arg0.toNat s.status.ovfMark).length
        res1 := 0
        status := { s.status with
          result := .ok
          encPending := false
          ovfMark := canonicalMark s.status.version s.arg0.toNat s.status.ovfMark } }

/-- R94, R166, R170, R177: the same for ENC_DRAIN and the residual a pending pulse left. -/
def Obligations.EncDrainEmitsTheRestOfThePulse : Prop :=
  ∀ s : State,
    Ready s .writing → s.status.encPending = true →
    (canonicalBytes s.status.version s.encRes.toNat s.status.ovfMark).length ≤ s.arg1.toNat →
    SinkRoom s (canonicalBytes s.status.version s.encRes.toNat s.status.ovfMark).length →
    SinkAccepts s (canonicalRecords s.status.version s.encRes.toNat s.status.ovfMark) →
    exec .encDrain s =
      .next { appended s (canonicalBytes s.status.version s.encRes.toNat s.status.ovfMark)
          (canonicalRecords s.status.version s.encRes.toNat s.status.ovfMark) with
        encRes := 0
        encCount := 0
        res0 := BitVec.ofNat 32
          (canonicalBytes s.status.version s.encRes.toNat s.status.ovfMark).length
        res1 := 0
        status := { s.status with
          result := .ok
          encPending := false
          ovfMark := canonicalMark s.status.version s.encRes.toNat s.status.ovfMark } }

/-- R172, R178, R182: under any capacity, ENC_PULSE (on `ARG0`) and ENC_DRAIN (on a pending residual) append
a leading part of the canonical records, stop only where the next record does not fit, and leave a residual
and a marker whose canonical records are exactly the rest: no byte duplicated or dropped. -/
def Obligations.CapacityStopsAtARecordBoundary : Prop :=
  ∀ (s : State) (i : Instr) (d : Word),
    Ready s .writing →
    (i = .encPulse ∧ s.status.encPending = false ∧ d = s.arg0) ∨
      (i = .encDrain ∧ s.status.encPending = true ∧ d = s.encRes) →
    SinkRoom s (canonicalBytes s.status.version d.toNat s.status.ovfMark).length →
    SinkAccepts s (canonicalRecords s.status.version d.toNat s.status.ovfMark) →
    ∃ (pre : List Byte) (records : Nat) (rest : Word) (pending mark : Bool),
      exec i s =
        .next { appended s pre records with
          encRes := rest
          encCount := 0
          res0 := BitVec.ofNat 32 pre.length
          res1 := rest
          status := { s.status with result := .ok, encPending := pending, ovfMark := mark } } ∧
      pre ++ (if pending then canonicalBytes s.status.version rest.toNat mark else []) =
        canonicalBytes s.status.version d.toNat s.status.ovfMark ∧
      (if pending then canonicalMark s.status.version rest.toNat mark else mark) =
        canonicalMark s.status.version d.toNat s.status.ovfMark ∧
      pre.length ≤ s.arg1.toNat ∧
      (pending = false → rest = 0) ∧
      (pending = true → ∃ u, encNext s.status.version rest.toNat mark = some u ∧
        s.arg1.toNat < pre.length + (encodeUnit u).length)

/-- R167, R168: ENC_PULSE while a pulse is pending is refused and changes only `STATUS.RESULT`; ENC_DRAIN with
nothing pending ends with Ok and reports zeros. -/
def Obligations.PendingDecidesPulseAndDrain : Prop :=
  ∀ s : State, Ready s .writing →
    (s.status.encPending = true →
      exec .encPulse s =
        .next { s with status := { s.status with result := .invalidArguments } }) ∧
    (s.status.encPending = false →
      exec .encDrain s =
        .next { s with res0 := 0, res1 := 0, status := { s.status with result := .ok } })

/-- R179, R180: the first record of an encoder command that fails, after k escapes of the same command (k = 0
included). It fits the capacity; if it passes the 32-bit counter, the command sets FAULT, goes to ERROR and
ends with GenericFailure; if the sink refuses it, the command goes to ERROR and ends with BackendError. Either
way the k escapes stay in the image and are counted in `OUT_COUNT` and `RES0`, nothing of this record is
written, the pulse stays pending, and `RES1 = ENC_RES` is what the k escapes leave of the duration. -/
def Obligations.FirstRecordFailuresKeepTheResidual : Prop :=
  ∀ (s : State) (i : Instr) (d : Word) (k : Nat) (u : RecUnit),
    Ready s .writing →
    (i = .encPulse ∧ s.status.encPending = false ∧ d = s.arg0) ∨
      (i = .encDrain ∧ s.status.encPending = true ∧ d = s.encRes) →
    k ≤ escapes s.status.version d.toNat →
    let emitted := (List.replicate k (escapeBytes s.status.version)).flatten
    let rest := d.toNat - k * escapeCycles s.status.version
    let mark := escapedMark s.status.version k s.status.ovfMark
    encNext s.status.version rest mark = some u →
    emitted.length + (encodeUnit u).length ≤ s.arg1.toNat →
    (1 ≤ k → SinkRoom s emitted.length) → SinkAccepts s k →
    (wordMax < s.outCount.toNat + emitted.length + (encodeUnit u).length →
      exec i s =
        .next { appended s emitted k with
          encRes := BitVec.ofNat 32 rest
          encCount := 0
          res0 := BitVec.ofNat 32 emitted.length
          res1 := BitVec.ofNat 32 rest
          status := { s.status with
            result := .genericFailure, state := .error, fault := true, encPending := true,
            ovfMark := mark } }) ∧
    (SinkRoom s (emitted.length + (encodeUnit u).length) → s.upcomingDraw k = false →
      exec i s =
        .next { appended s emitted (k + 1) with
          encRes := BitVec.ofNat 32 rest
          encCount := 0
          res0 := BitVec.ofNat 32 emitted.length
          res1 := BitVec.ofNat 32 rest
          status := { s.status with
            result := .backendError, state := .error, encPending := true, ovfMark := mark } })

/-- R165, R181, R184: what ENC_PULSE and ENC_DRAIN never change, whatever they end with, in a stream whose
image is canonical and counted: every byte already in the output image, the input image, the cursor, the
operands, the configuration, the scaler, and the flags not named by their rules; and `OUT_COUNT` still counts
the image. In version 0 the marker is not touched. -/
def Obligations.EncoderFrame : Prop :=
  ∀ (s t : State) (i : Instr), i = .encPulse ∨ i = .encDrain →
    s.outCount.toNat = s.outImg.len → s.outImg.wf = true → exec i s = .next t →
    t = { s with
      encRes := t.encRes
      encCount := t.encCount
      outCount := t.outCount
      outImg := t.outImg
      res0 := t.res0
      res1 := t.res1
      sinkDraws := t.sinkDraws
      drawCount := t.drawCount
      status := { s.status with
        result := t.status.result, state := t.status.state, fault := t.status.fault,
        encPending := t.status.encPending, ovfMark := t.status.ovfMark } } ∧
    (∀ a, a < s.outImg.len → t.outImg.byte? a = s.outImg.byte? a) ∧
    t.outCount.toNat = t.outImg.len ∧ t.outImg.wf = true ∧
    (s.status.version = 0 → t.status.ovfMark = s.status.ovfMark)

/-- R102, R245: the host loop `ENCODE d, cap` with capacity for one escape record (4 bytes in versions 1 and
2, 1 byte in version 0) ends, with exactly the canonical records appended, when it is given at most one drain
for each escape and one more (the cut-off after a number of rounds is the model's choice, log 15). -/
def Obligations.EncodeLoopAppendsTheWholePulse : Prop :=
  ∀ (s : State) (d cap : Word),
    Ready s .writing → s.status.encPending = false →
    (escapeBytes s.status.version).length ≤ cap.toNat →
    SinkRoom s (canonicalBytes s.status.version d.toNat s.status.ovfMark).length →
    SinkAccepts s (canonicalRecords s.status.version d.toNat s.status.ovfMark) →
    ∃ t, encodeMacro (escapes s.status.version d.toNat + 1) d cap s = .next t ∧
      t.status.result = .ok ∧ t.status.encPending = false ∧ t.encRes = 0 ∧
      t.outImg =
        s.outImg.append (canonicalBytes s.status.version d.toNat s.status.ovfMark) ∧
      t.outCount.toNat = t.outImg.len ∧
      t.status.ovfMark = canonicalMark s.status.version d.toNat s.status.ovfMark

/-- R185, R250: the records of a pulse read back in ADD mode. In versions 1 and 2: one pulse of 16777215
cycles per escape, then the remainder as it stands if it was written as an extended record, or rounded up to
a multiple of 8 and at most 2040. In version 0: one pulse of all the cycles, its short part rounded so, or
none if there is no short part. -/
def Obligations.CanonicalRecordsReadBack : Prop :=
  ∀ (ver : BitVec 2) (d : Nat) (mark : Bool) (fuel : Nat),
    d ≤ wordMax → (canonicalBytes ver d mark).length ≤ fuel →
    recordCycles ver fuel (canonicalBytes ver d mark) =
      if ver = 0 then
        (if d % 2048 = 0 then [] else [2048 * (d / 2048) + roundedCycles (d % 2048)])
      else
        List.replicate (d / 16777215) 16777215 ++
          (if 2048 ≤ d % 16777215 then [d % 16777215]
           else if d % 16777215 = 0 then
             (if 1 ≤ d / 16777215 ∨ mark = true then [0] else [])
           else [roundedCycles (d % 16777215)])

/-! ## The record rows -/

/-- SHORT in a read stream: where it stands at the cursor, it is decoded; after zero bytes of the same record
it closes the chain (R148, R149; how a row runs is the model's choice, log 8). -/
def Obligations.ShortRowIsDecoded : Prop :=
  ∀ (s : State) (b : Byte),
    Ready s .reading → s.inImg.len ≤ wordMax → HasAt s 0 b → b ≠ 0 →
    exec (.short b) s =
      .next { s with
        inPos := s.inPos + 1
        res0 :=
          if s.dec.zeros = 0 ∨ s.streamCfg.getLsbD 5 = true then BitVec.ofNat 32 (8 * b.toNat)
          else s.dec.acc + BitVec.ofNat 32 (8 * b.toNat)
        res1 :=
          if s.dec.zeros = 0 then 0x01000001
          else BitVec.ofNat 32
            (min (s.inPos.toNat + 1 - s.dec.start.toNat) 0xFFFFFF + 2 * 16777216)
        dec := DecWork.idle
        status := { s.status with result := .ok } }

/-- V0ESC in a version-0 read stream: one byte taken and one more zero counted; in ADD mode 2048 cycles are
added to the record being read, or the record faults (R85, R148, R157; that the record is then still open is
the model's choice, log 8 and 9). -/
def Obligations.EscapeRowIsDecoded : Prop :=
  ∀ s : State,
    Ready s .reading → s.inImg.len ≤ wordMax → s.status.version = 0 → HasAt s 0 0 →
    exec .v0esc s =
      (let start := if s.dec.zeros = 0 then s.inPos else s.dec.start
       let acc := if s.dec.zeros = 0 then 0 else s.dec.acc
       if s.streamCfg.getLsbD 5 = true then
         .next { s with
           inPos := s.inPos + 1
           dec := { start := start, acc := acc, zeros := s.dec.zeros + 1 } }
       else if wordMax < acc.toNat + 2048 then
         .next { s with
           inPos := s.inPos + 1
           dec := DecWork.idle
           status := { s.status with result := .genericFailure, state := .error, fault := true } }
       else
         .next { s with
           inPos := s.inPos + 1
           dec := { start := start, acc := acc + 2048, zeros := s.dec.zeros + 1 } })

/-- V0CHAIN in a version-0 read stream, where the chain stands at the cursor: its cycles by the mode, n+1
bytes, form 2 (R152, R153; how a row runs is the model's choice, log 8). -/
def Obligations.ChainRowIsDecoded : Prop :=
  ∀ (s : State) (n : Nat) (b : Byte),
    Ready s .reading → s.inImg.len ≤ wordMax → s.status.version = 0 → s.dec.zeros = 0 → 1 ≤ n →
    (s.streamCfg.getLsbD 5 = false → n ≤ 2097151) →
    (∀ k, k < n → HasAt s k 0) → HasAt s n b → b ≠ 0 →
    exec (.v0chain n b) s =
      .next { s with
        inPos := s.inPos + BitVec.ofNat 32 (n + 1)
        res0 := BitVec.ofNat 32
          (if s.streamCfg.getLsbD 5 = true then 8 * b.toNat else 2048 * n + 8 * b.toNat)
        res1 := BitVec.ofNat 32 (min (n + 1) 0xFFFFFF + 2 * 16777216)
        dec := DecWork.idle
        status := { s.status with result := .ok } }

/-- EXT, EXT-OVF and EXT-ZERO in a read stream of version 1 or 2, where the record stands at the cursor: its
24-bit value, four bytes, form 3 (R88, R89, R151; how a row runs is the model's choice, log 8). -/
def Obligations.ExtendedRowsAreDecoded : Prop :=
  ∀ (s : State) (v : Value24),
    Ready s .reading → s.inImg.len ≤ wordMax → s.status.version ≠ 0 →
    s.inImg.bytesFrom s.inPos.toNat 4 = 0 :: leBytes 3 v.toNat →
    ∀ i : Instr, i = .ext v ∨ (i = .extOvf ∧ v = 0xFFFFFF) ∨ (i = .extZero ∧ v = 0) →
      exec i s =
        .next { s with
          inPos := s.inPos + 4
          res0 := BitVec.ofNat 32 v.toNat
          res1 := 0x03000004
          dec := DecWork.idle
          status := { s.status with result := .ok } }

/-- V0ESC and EXT-OVF in a write stream that owes an escape: the escape is appended, one overflowUnit leaves
the residual, and EXT-OVF sets the marker (R171, R173; how a row runs is the model's choice, log 8). -/
def Obligations.EscapeRowsAreEmitted : Prop :=
  ∀ s : State,
    (s.status.version = 0 → 2048 ≤ s.encRes.toNat → CanEmit s 1 → s.upcomingDraw 0 = true →
      exec .v0esc s =
        .next { appended s [0] 1 with
          encCount := s.encCount + 1, encRes := s.encRes - 2048 }) ∧
    (s.status.version ≠ 0 → 0xFFFFFF ≤ s.encRes.toNat → CanEmit s 4 → s.upcomingDraw 0 = true →
      exec .extOvf s =
        .next { appended s [0, 0xFF, 0xFF, 0xFF] 1 with
          encCount := s.encCount + 4
          encRes := s.encRes - 0xFFFFFF
          status := { s.status with ovfMark := true } })

/-- EXT and EXT-ZERO in a write stream that owes the record: it is appended, the pulse is complete and the
marker cleared (R174, R177; how a row runs is the model's choice, log 8). -/
def Obligations.ExtendedRowsAreEmitted : Prop :=
  ∀ (s : State) (i : Instr),
    s.status.version ≠ 0 → CanEmit s 4 → s.upcomingDraw 0 = true →
    (2048 ≤ s.encRes.toNat ∧ s.encRes.toNat < 0xFFFFFF ∧
        i = .ext (BitVec.ofNat 24 s.encRes.toNat)) ∨
      (s.encRes = 0 ∧ s.status.ovfMark = true ∧ i = .extZero) →
    exec i s =
      .next { appended s (0 :: leBytes 3 s.encRes.toNat) 1 with
        encRes := 0
        encCount := 0
        res0 := s.encCount + 4
        res1 := 0
        status := { s.status with result := .ok, encPending := false, ovfMark := false } }

/-- SHORT and V0CHAIN in a write stream that owes them: the bytes are appended and the pulse is complete; the
marker is unchanged (R173, R175, R177, R183; how a row runs is the model's choice, log 8). -/
def Obligations.ShortAndChainRowsAreEmitted : Prop :=
  ∀ (s : State) (n r : Nat) (i : Instr), 1 ≤ r → r ≤ 2047 →
    s.encRes.toNat = 2048 * n + r →
    (n = 0 ∧ i = .short (recordByte r)) ∨
      (1 ≤ n ∧ s.status.version = 0 ∧ i = .v0chain n (recordByte r)) →
    CanEmit s (n + 1) → SinkAccepts s (n + 1) →
    exec i s =
      .next { appended s (List.replicate n 0 ++ [recordByte r]) (n + 1) with
        encRes := 0
        encCount := 0
        res0 := s.encCount + BitVec.ofNat 32 (n + 1)
        res1 := 0
        status := { s.status with result := .ok, encPending := false } }

/-- A row owed in a write stream that does not fit the capacity left, or the counter, or that the sink
refuses, ends the command as R178, R179 and R180 say, with the bytes counted so far in `RES0` (how a row
runs is the model's choice, log 8). The same of a chain whose first zero byte is owed so. -/
def Obligations.OwedRowStopsOrFails : Prop :=
  ∀ (s : State) (u : RecUnit) (i : Instr),
    i = u.toInstr ∨ (u = .zero ∧ ∃ n b, 1 ≤ n ∧ i = .v0chain n b) →
    Ready s .writing → s.status.encPending = true →
    encNext s.status.version s.encRes.toNat s.status.ovfMark = some u →
    (s.arg1.toNat < s.encCount.toNat + (encodeUnit u).length →
      exec i s =
        .next { s with
          res0 := s.encCount, res1 := s.encRes, encCount := 0
          status := { s.status with result := .ok } }) ∧
    (s.encCount.toNat + (encodeUnit u).length ≤ s.arg1.toNat →
      wordMax < s.outCount.toNat + (encodeUnit u).length →
      exec i s =
        .next { s with
          res0 := s.encCount, res1 := s.encRes, encCount := 0
          status := { s.status with
            result := .genericFailure, state := .error, fault := true } }) ∧
    (s.encCount.toNat + (encodeUnit u).length ≤ s.arg1.toNat →
      SinkRoom s (encodeUnit u).length → s.upcomingDraw 0 = false →
      exec i s =
        .next { s with
          res0 := s.encCount, res1 := s.encRes, encCount := 0
          sinkDraws := s.sinkDraws.drop 1, drawCount := s.drawCount + 1
          status := { s.status with result := .backendError, state := .error } })

/-- Record rows outside their stream (R115, R223; the refusal is the model's choice, log 8). Where no stream
is open, or the stream is held, or TERM is set, a row ends as the pulse commands do. In READING a row is
refused by name where its first byte is not the one at the cursor, and a one-unit row where its bytes do not
stand at the cursor or the version does not have its form. In WRITING a row is refused where no pulse is
pending, and a one-unit row where another unit is owed. A chain is refused where it stops matching: in READING
at the start of a record (in ADD mode within the accumulator), and in WRITING where its first zero byte is not
owed, or where capacity, counter and sink let its zero bytes through. -/
def Obligations.RowsOutsideTheirStreamDoNotRun : Prop :=
  (∀ (s : State) (i : Instr),
    (∃ ver, i.inSpace (.unit ver) = true ∨ i.inSpace (.record ver) = true) →
    (s.status.state = .idle ∨ s.status.state = .closed →
      exec i s = .next { s with status := { s.status with result := .invalidArguments } }) ∧
    (s.status.state = .interrupted →
      exec i s = .next { s with status := { s.status with result := .interrupted } }) ∧
    (s.status.state = .error →
      exec i s = .next { s with status := { s.status with result := .genericFailure } }) ∧
    (s.status.state = .reading ∨ s.status.state = .writing → s.term = true →
      exec i s =
        .next { s with status := { s.status with result := .interrupted, state := .interrupted } }) ∧
    (Ready s .reading → (∀ b, HasAt s 0 b → ∀ p bs, encode p i ≠ .bytes (b :: bs)) →
      exec i s = .refused .notPresented) ∧
    (Ready s .writing → s.status.encPending = false → exec i s = .refused .notPresented)) ∧
  (∀ (s : State) (u : RecUnit),
    (Ready s .reading →
      ¬ (u.toInstr.wf = true ∧ u.toInstr.inSpace (.unit s.status.version) = true ∧
        s.inImg.bytesFrom s.inPos.toNat (encodeUnit u).length = encodeUnit u) →
      exec u.toInstr s = .refused .notPresented) ∧
    (Ready s .writing → encNext s.status.version s.encRes.toNat s.status.ovfMark ≠ some u →
      exec u.toInstr s = .refused .notPresented)) ∧
  (∀ (s : State) (n : Nat) (b : Byte),
    (Ready s .reading → s.inImg.len ≤ wordMax → s.dec.zeros = 0 →
      (s.streamCfg.getLsbD 5 = false → n ≤ 2097151) →
      ¬ (1 ≤ n ∧ b ≠ 0 ∧ s.status.version = 0 ∧
        s.inImg.bytesFrom s.inPos.toNat (n + 1) = List.replicate n 0 ++ [b]) →
      exec (.v0chain n b) s = .refused .notPresented) ∧
    (Ready s .writing → encNext s.status.version s.encRes.toNat s.status.ovfMark ≠ some .zero →
      exec (.v0chain n b) s = .refused .notPresented) ∧
    (CanEmit s n → SinkAccepts s n →
      ¬ (1 ≤ n ∧ s.status.version = 0 ∧
        ∃ r, 1 ≤ r ∧ r ≤ 2047 ∧ s.encRes.toNat = 2048 * n + r ∧ b = recordByte r) →
      exec (.v0chain n b) s = .refused .notPresented))

/-! ## The scaler -/

/-- R193: SCALE_CFG, whole: the configuration word, then a sample rate that is not zero; then the selection,
the rate and the table's clock are latched and the scaler is ready. -/
def Obligations.ScaleCfgFollowsItsRule : Prop :=
  ∀ s : State,
    exec .scaleCfg s =
      (let mach := s.arg0.toNat / 4 % 4
       let ntsc := s.arg0.toNat / 16 % 2
       if ¬ CfgLegal s.arg0 ∨ s.arg1 = 0 then
         .next { s with status := { s.status with result := .invalidArguments } }
       else
         .next { s with
           scaleSel := BitVec.ofNat 32 (mach + 4 * ntsc)
           scaleRate := s.arg1
           scaleClock :=
             if mach = 0 then (if ntsc = 0 then s.par.clockC64Pal else s.par.clockC64Ntsc)
             else if mach = 1 then (if ntsc = 0 then s.par.clockVicPal else s.par.clockVicNtsc)
             else (if ntsc = 0 then s.par.clockC16Pal else s.par.clockC16Ntsc)
           status := { s.status with result := .ok, scalerReady := true } })

/-- R196, R198, R199, R201: both conversions, whole, wherever a ready scaler has a rate and a clock (R53):
not ready is refused; the exact product is divided with an exact half rounded up; a quotient past 32 bits
sets FAULT, ends with GenericFailure and leaves `RES0`. -/
def Obligations.ScalerConvertsByTheExactRatio : Prop :=
  ∀ (s : State) (i : Instr) (m d : Word),
    (i = .scaleS2C ∧ m = s.scaleClock ∧ d = s.scaleRate) ∨
      (i = .scaleC2S ∧ m = s.scaleRate ∧ d = s.scaleClock) →
    (s.status.scalerReady = true → 1 ≤ d.toNat) →
    exec i s =
      (let q := (s.arg0.toNat * m.toNat + d.toNat / 2) / d.toNat
       if s.status.scalerReady = false then
         .next { s with status := { s.status with result := .invalidArguments } }
       else if 0xFFFFFFFF < q then
         .next { s with status := { s.status with result := .genericFailure, fault := true } }
       else
         .next { s with
           res0 := BitVec.ofNat 32 q, status := { s.status with result := .ok } })

/-- R197: `RoundDiv(n, D) = ⌊(n + ⌊D/2⌋) / D⌋` is the nearest integer to n / D, with an exact half rounded up:
it lies at most a half above n / D, and less than a half below it (both sides multiplied by 2·D). -/
def Obligations.RoundedDivisionIsNearestWithHalfUp : Prop :=
  ∀ n d : Nat, 1 ≤ d →
    roundDiv n d = (n + d / 2) / d ∧
    2 * n < 2 * d * roundDiv n d + d ∧ 2 * d * roundDiv n d ≤ 2 * n + d

/-- R202: when the clock is at least the sample rate, converting samples to cycles and the result back gives
the samples, whenever the first conversion does not overflow. -/
def Obligations.SamplesSurviveTheRoundTripThroughCycles : Prop :=
  ∀ s t : State,
    s.status.scalerReady = true → 1 ≤ s.scaleRate.toNat →
    s.scaleRate.toNat ≤ s.scaleClock.toNat →
    exec .scaleS2C s = .next t → t.status.result = .ok →
    ∃ u, exec .scaleC2S { t with arg0 := t.res0 } = .next u ∧
      u.status.result = .ok ∧ u.res0 = s.arg0

/-- R202: both conversions send 0 to 0 and are monotonic in their operand, where they succeed. -/
def Obligations.ConversionsAreMonotonic : Prop :=
  ∀ (s t t' : State) (x : Word) (i : Instr), i = .scaleS2C ∨ i = .scaleC2S →
    exec i s = .next t → t.status.result = .ok →
    exec i { s with arg0 := x } = .next t' → t'.status.result = .ok →
    (s.arg0.toNat ≤ x.toNat → t.res0.toNat ≤ t'.res0.toNat) ∧
    (s.arg0 = 0 → t.res0 = 0)

/-! ## The images -/

/-- R16, through the reading of one byte: a canonical image after an append holds the old bytes below its old
length and the appended bytes above; after a patch inside it, the patched bytes and every other byte as
before; both stay canonical. -/
def Obligations.ImageWritesChangeOnlyTheirBytes : Prop :=
  ∀ (m : Memory) (bs : List Byte), m.wf = true →
    ((m.append bs).wf = true ∧ (m.append bs).len = m.len + bs.length ∧
      ∀ x, (m.append bs).byte? x = if x < m.len then m.byte? x else bs[x - m.len]?) ∧
    (∀ a, a + bs.length ≤ m.len →
      (m.patch a bs).wf = true ∧ (m.patch a bs).len = m.len ∧
      ∀ x, (m.patch a bs).byte? x =
        if a ≤ x ∧ x < a + bs.length then bs[x - a]? else m.byte? x)

/-- Two canonical images that hold the same bytes are the same data (log 6). -/
def Obligations.CanonicalImagesAreTheirBytes : Prop :=
  ∀ m m' : Memory, m.wf = true → m'.wf = true → m.len = m'.len →
    (∀ a, m.byte? a = m'.byte? a) → m = m'

/-! ## Every step -/

/-- The invariant holds after reset (R53, R58). -/
def Obligations.ResetMeetsTheInvariant : Prop := Inv State.reset

/-- R26, R53: every step keeps the invariant, from every state that has it; among its clauses, `IN_POS ≤ IN_LEN`
in every state. -/
def Obligations.EveryStepKeepsTheInvariant : Prop :=
  ∀ s t : State, Inv s → step s = .next t → Inv t

/-- No step from a state with the invariant faults: no rule's precondition is ever missed (R15, R16, R95,
R196; log 12). -/
def Obligations.NoStepFaultsUnderTheInvariant : Prop :=
  ∀ (s : State) (f : Fault), Inv s → step s ≠ .fault f

/-- R216: the codes each command can end with, from a state with the invariant. -/
def Obligations.CommandsEndOnlyWithTheirCodes : Prop :=
  ∀ (s t : State) (i : Instr), Inv s → exec i s = .next t →
    (i = .openRead → t.status.result ∈
      [ResultCode.ok, .invalidArguments, .wrongContainerFormat]) ∧
    (i = .openWrite ∨ i = .close → t.status.result ∈
      [ResultCode.ok, .invalidArguments, .backendError]) ∧
    (i = .recDecode → t.status.result ∈
      [ResultCode.ok, .endOfStream, .interrupted, .invalidArguments, .genericFailure]) ∧
    (i = .encPulse ∨ i = .encDrain → t.status.result ∈
      [ResultCode.ok, .interrupted, .invalidArguments, .genericFailure, .backendError]) ∧
    (i = .scaleCfg → t.status.result ∈ [ResultCode.ok, .invalidArguments]) ∧
    (i = .scaleS2C ∨ i = .scaleC2S → t.status.result ∈
      [ResultCode.ok, .invalidArguments, .genericFailure]) ∧
    (i = .reset → t.status.result = .ok) ∧
    (∀ w, i = .illegal w → t.status.result = .invalidArguments)

/-- R27, R30, R33 to R41: each register and flag is written only by the commands the map names for it; FAULT is
also sticky; no command writes the input image or the parameters. (Which commands use the model's own fields
and the hidden values is the model's choice: log 1, 4, 5, 9 and 19.) -/
def Obligations.OnlyTheNamedCommandsWriteEachRegister : Prop :=
  ∀ (s t : State) (i : Instr), i.inSpace .command = true → exec i s = .next t →
    (t.inImg = s.inImg ∧ t.offered = s.offered ∧ t.par = s.par ∧ t.host = s.host ∧
      t.rdata = s.rdata) ∧
    (i ≠ .reset → t.arg0 = s.arg0 ∧ t.arg1 = s.arg1 ∧ t.term = s.term ∧
      (s.status.fault = true → t.status.fault = true)) ∧
    (i ∉ [Instr.openRead, .openWrite, .reset] →
      t.streamCfg = s.streamCfg ∧ t.status.version = s.status.version ∧
      t.status.dir = s.status.dir) ∧
    (i ∉ [Instr.scaleCfg, .reset] →
      t.scaleSel = s.scaleSel ∧ t.scaleRate = s.scaleRate ∧ t.scaleClock = s.scaleClock ∧
      t.status.scalerReady = s.status.scalerReady) ∧
    (i ∉ [Instr.encPulse, .encDrain, .openWrite, .close, .reset] →
      t.encRes = s.encRes ∧ t.status.encPending = s.status.encPending ∧
      t.outImg = s.outImg) ∧
    (i ∉ [Instr.encPulse, .encDrain, .openWrite, .reset] →
      t.outCount = s.outCount ∧ t.status.ovfMark = s.status.ovfMark) ∧
    (i ∉ [Instr.openRead, .recDecode, .reset] → t.inPos = s.inPos) ∧
    (i ∉ [Instr.openRead, .reset] →
      t.status.hdrV2 = s.status.hdrV2 ∧ t.status.hdrFamily = s.status.hdrFamily) ∧
    (i ∉ [Instr.openWrite, .close, .reset] → t.status.discarded = s.status.discarded) ∧
    (i ∉ [Instr.recDecode, .encPulse, .encDrain, .scaleS2C, .scaleC2S, .reset] →
      t.status.fault = s.status.fault) ∧
    (i ∉ [Instr.openRead, .openWrite, .recDecode, .encPulse, .encDrain, .close, .reset] →
      t.status.state = s.status.state) ∧
    (i ∉ [Instr.openRead, .recDecode, .encPulse, .encDrain, .close, .scaleS2C, .scaleC2S, .reset] →
      t.res0 = s.res0) ∧
    (i ∉ [Instr.openRead, .recDecode, .encPulse, .encDrain, .reset] → t.res1 = s.res1) ∧
    (i ∉ [Instr.recDecode, .reset] → t.dec = s.dec) ∧
    (i ∉ [Instr.encPulse, .encDrain, .reset] → t.encCount = s.encCount) ∧
    (i ∉ [Instr.openWrite, .encPulse, .encDrain, .close] →
      t.sinkDraws = s.sinkDraws ∧ t.drawCount = s.drawCount)

/-- R224, R225: a stream in INTERRUPTED or ERROR stays there under every command but CLOSE and RESET, and
those two leave it; clearing TERM does not resume it. -/
def Obligations.HeldStreamsLeaveOnlyByCloseOrReset : Prop :=
  ∀ (s t : State) (i : Instr),
    s.status.state = .interrupted ∨ s.status.state = .error →
    i.inSpace .command = true → exec i s = .next t →
    (i ≠ .close → i ≠ .reset → t.status.state = s.status.state) ∧
    (i = .close → t.status.state = .closed) ∧ (i = .reset → t.status.state = .idle)
end

