-- ==== Sys2Proof/Laws/Bytes.lean ====
section
/-! SUPPORT. Little-endian byte sequences: length, and reading back what was written (`00_scope.md` R14). -/

namespace Sys2Proof

@[simp] theorem leBytes_length (n v : Nat) : (leBytes n v).length = n := by
  induction n generalizing v with
  | zero => rfl
  | succ n ih => simp [leBytes, ih]

/-- `FromLE(LE(n, v))` is v, where n bytes hold it. -/
theorem fromLE_leBytes {n v : Nat} (h : v < 256 ^ n) : fromLE (leBytes n v) = v := by
  induction n generalizing v with
  | zero => simp [leBytes, fromLE]; omega
  | succ n ih =>
    have hv : v / 256 < 256 ^ n := by
      rw [Nat.div_lt_iff_lt_mul (by norm_num)]
      rwa [pow_succ] at h
    simp only [leBytes, fromLE, ih hv, BitVec.toNat_ofNat]
    omega

/-- A sequence of n bytes stands for a number below `256 ^ n`. -/
theorem fromLE_lt (bs : List Byte) : fromLE bs < 256 ^ bs.length := by
  induction bs with
  | nil => simp [fromLE]
  | cons b t ih =>
    have := b.isLt
    simp only [fromLE, List.length_cons, pow_succ]
    omega

/-- `LE(n, FromLE(bs))` is bs, for n bytes. -/
theorem leBytes_fromLE (bs : List Byte) : leBytes bs.length (fromLE bs) = bs := by
  induction bs with
  | nil => rfl
  | cons b t ih =>
    have hb := b.isLt
    have h1 : (b.toNat + 256 * fromLE t) / 256 = fromLE t := by omega
    have h2 : BitVec.ofNat 8 (b.toNat + 256 * fromLE t) = b := by
      apply BitVec.eq_of_toNat_eq
      simp only [BitVec.toNat_ofNat]
      omega
    simp only [fromLE, List.length_cons, leBytes, h1, h2, ih]

@[simp] theorem magicBytes_length (p : Params) (f : Family) : (magicBytes p f).length = 12 := by
  cases f <;> simp [magicBytes]

@[simp] theorem encodeHeader_length (p : Params) (h : Header) : (encodeHeader p h).length = 20 := by
  simp [encodeHeader]

end Sys2Proof
end

