-- ==== Sys2Proof/Laws/Memory.lean ====
section
/-! SUPPORT. Every operation on an image keeps the canonical form (log 6), and what the operations on single
bytes do to the cells. -/

namespace Sys2Proof.Machine

/-! ## Cells -/

theorem cellsWf_cons (lo len k : Nat) (b : Byte) (t : List Host.Cell) :
    cellsWf lo len ((k, b) :: t) = true ↔
      lo ≤ k ∧ k < len ∧ b ≠ 0 ∧ cellsWf (k + 1) len t = true := by
  simp [cellsWf, and_assoc]

/-- A list of cells that starts at lo also starts at anything lower, and fits any greater length. -/
theorem cellsWf_mono {lo lo' len len' : Nat} {cs : List Host.Cell}
    (h : cellsWf lo len cs = true) (hlo : lo' ≤ lo) (hlen : len ≤ len') :
    cellsWf lo' len' cs = true := by
  induction cs generalizing lo lo' with
  | nil => rfl
  | cons c t ih =>
    obtain ⟨k, b⟩ := c
    rw [cellsWf_cons] at h ⊢
    exact ⟨by omega, by omega, h.2.2.1, ih h.2.2.2 le_rfl⟩

/-- Cells that start at lo say nothing of lower addresses. -/
theorem cellAt_below {lo len a : Nat} {cs : List Host.Cell}
    (h : cellsWf lo len cs = true) (ha : a < lo) : cellAt cs a = 0 := by
  induction cs generalizing lo with
  | nil => rfl
  | cons c t ih =>
    obtain ⟨k, b⟩ := c
    rw [cellsWf_cons] at h
    have hk : k ≠ a := by omega
    simp only [cellAt, hk, if_false]
    exact ih h.2.2.2 (by omega)

/-- Cells below len say nothing of addresses from len on. -/
theorem cellAt_above {lo len a : Nat} {cs : List Host.Cell}
    (h : cellsWf lo len cs = true) (ha : len ≤ a) : cellAt cs a = 0 := by
  induction cs generalizing lo with
  | nil => rfl
  | cons c t ih =>
    obtain ⟨k, b⟩ := c
    rw [cellsWf_cons] at h
    have hk : k ≠ a := by omega
    simp only [cellAt, hk, if_false]
    exact ih h.2.2.2

/-- A cell at the end goes behind all the others. -/
theorem cellsWf_snoc {lo len : Nat} {cs : List Host.Cell} {b : Byte}
    (h : cellsWf lo len cs = true) (hlo : lo ≤ len) (hb : b ≠ 0) :
    cellsWf lo (len + 1) (cs ++ [(len, b)]) = true := by
  induction cs generalizing lo with
  | nil => exact (cellsWf_cons ..).2 ⟨hlo, Nat.lt_succ_self _, hb, rfl⟩
  | cons c t ih =>
    obtain ⟨k, v⟩ := c
    rw [cellsWf_cons] at h
    rw [List.cons_append, cellsWf_cons]
    exact ⟨h.1, by omega, h.2.2.1, ih h.2.2.2 (by omega)⟩

/-- Setting a cell inside the range keeps the cells in order and non-zero. -/
theorem cellsWf_setCell {lo len a : Nat} {b : Byte} {cs : List Host.Cell}
    (h : cellsWf lo len cs = true) (hlo : lo ≤ a) (hlen : a < len) :
    cellsWf lo len (setCell cs a b) = true := by
  induction cs generalizing lo with
  | nil =>
    unfold setCell
    split_ifs with hb
    · rfl
    · exact (cellsWf_cons ..).2 ⟨hlo, hlen, hb, rfl⟩
  | cons c t ih =>
    obtain ⟨k, v⟩ := c
    have h' := (cellsWf_cons lo len k v t).1 h
    unfold setCell
    split_ifs with h1 h2 h3 h4
    · exact h
    · rw [cellsWf_cons, cellsWf_cons]
      exact ⟨hlo, hlen, h2, by omega, h'.2.1, h'.2.2.1, h'.2.2.2⟩
    · exact cellsWf_mono h'.2.2.2 (by omega) le_rfl
    · rw [cellsWf_cons]
      exact ⟨hlo, hlen, h4, h3 ▸ h'.2.2.2⟩
    · rw [cellsWf_cons]
      exact ⟨h'.1, h'.2.1, h'.2.2.1, ih h'.2.2.2 (by omega)⟩

/-- What a cell reads as after one cell is set. -/
theorem cellAt_setCell {lo len a : Nat} {b : Byte} {cs : List Host.Cell}
    (h : cellsWf lo len cs = true) (x : Nat) :
    cellAt (setCell cs a b) x = if x = a then b else cellAt cs x := by
  induction cs generalizing lo with
  | nil =>
    unfold setCell
    split_ifs with hb hx hx
    · exact hb.symm
    · rfl
    · simp [cellAt, hx]
    · simp [cellAt, Ne.symm hx]
  | cons c t ih =>
    obtain ⟨k, v⟩ := c
    have h' := (cellsWf_cons lo len k v t).1 h
    have below : ∀ y, y < k + 1 → cellAt t y = 0 := fun y hy => cellAt_below h'.2.2.2 hy
    have ih' := ih h'.2.2.2
    unfold setCell
    by_cases hxa : x = a
    · subst hxa
      rw [if_pos rfl] at ih' ⊢
      split_ifs with h1 h2 h3 h4
      · have : k ≠ x := by omega
        simp only [cellAt, this, if_false, below x (by omega), h2]
      · simp [cellAt]
      · rw [below x (by omega), h4]
      · simp [cellAt]
      · have : k ≠ x := Ne.symm h3
        simpa [cellAt, this] using ih'
    · rw [if_neg hxa] at ih' ⊢
      have hax : a ≠ x := Ne.symm hxa
      split_ifs with h1 h2 h3 h4
      · rfl
      · simp [cellAt, hax]
      · have : k ≠ x := h3 ▸ hax
        simp [cellAt, this]
      · have : k ≠ x := h3 ▸ hax
        simp [cellAt, this, hax]
      · simp [cellAt, ih']

/-! ## Images -/

theorem Memory.empty_wf : Memory.empty.wf = true := rfl

@[simp] theorem Memory.push_len (m : Memory) (b : Byte) : (m.push b).len = m.len + 1 := rfl

@[simp] theorem Memory.poke_len (m : Memory) (a : Nat) (b : Byte) : (m.poke a b).len = m.len := rfl

theorem Memory.push_wf {m : Memory} (b : Byte) (h : m.wf = true) : (m.push b).wf = true := by
  unfold Memory.push Memory.wf
  split_ifs with hb
  · exact cellsWf_mono h le_rfl (Nat.le_succ _)
  · exact cellsWf_snoc h (Nat.zero_le _) hb

theorem Memory.append_wf {m : Memory} (bs : List Byte) (h : m.wf = true) : (m.append bs).wf = true := by
  induction bs generalizing m with
  | nil => exact h
  | cons b t ih => exact ih (Memory.push_wf b h)

@[simp] theorem Memory.append_len (m : Memory) (bs : List Byte) :
    (m.append bs).len = m.len + bs.length := by
  induction bs generalizing m with
  | nil => rfl
  | cons b t ih => simp [Memory.append, ih]; omega

theorem Memory.append_append (m : Memory) (xs ys : List Byte) :
    m.append (xs ++ ys) = (m.append xs).append ys := by
  induction xs generalizing m with
  | nil => rfl
  | cons b t ih => exact ih (m.push b)

theorem Memory.poke_wf {m : Memory} {a : Nat} (b : Byte) (h : m.wf = true) (ha : a < m.len) :
    (m.poke a b).wf = true :=
  cellsWf_setCell h (Nat.zero_le _) ha

@[simp] theorem Memory.patch_len (m : Memory) (a : Nat) (bs : List Byte) :
    (m.patch a bs).len = m.len := by
  induction bs generalizing m a with
  | nil => rfl
  | cons b t ih => simp [Memory.patch, ih]

theorem Memory.patch_wf {m : Memory} {a : Nat} (bs : List Byte) (h : m.wf = true)
    (ha : a + bs.length ≤ m.len) : (m.patch a bs).wf = true := by
  induction bs generalizing m a with
  | nil => exact h
  | cons b t ih =>
    simp only [List.length_cons] at ha
    exact ih (Memory.poke_wf b h (by omega)) (by rw [Memory.poke_len]; omega)

theorem Memory.ofBytes_wf (bs : List Byte) : (Memory.ofBytes bs).wf = true :=
  Memory.append_wf bs Memory.empty_wf

@[simp] theorem Memory.ofBytes_len (bs : List Byte) : (Memory.ofBytes bs).len = bs.length := by
  simp [Memory.ofBytes, Memory.empty]

/-- Reading one byte after one byte is put at the end. -/
theorem Memory.byte?_push {m : Memory} (b : Byte) (h : m.wf = true) (x : Nat) :
    (m.push b).byte? x = if x = m.len then some b else m.byte? x := by
  have hx : ∀ (cs : List Host.Cell), x ≠ m.len → cellAt (cs ++ [(m.len, b)]) x = cellAt cs x := by
    intro cs hne
    induction cs with
    | nil => simp [cellAt, Ne.symm hne]
    | cons c t ih => obtain ⟨k, v⟩ := c; simp [cellAt, ih]
  have hl : ∀ (lo : Nat) (cs : List Host.Cell), cellsWf lo m.len cs = true →
      cellAt (cs ++ [(m.len, b)]) m.len = b := by
    intro lo cs hcs
    induction cs generalizing lo with
    | nil => simp [cellAt]
    | cons c t ih =>
      obtain ⟨k, v⟩ := c
      have h' := (cellsWf_cons lo m.len k v t).1 hcs
      have : k ≠ m.len := by omega
      simpa [cellAt, this] using ih _ h'.2.2.2
  unfold Memory.byte? Memory.push
  by_cases hxl : x = m.len
  · subst hxl
    rw [if_pos (Nat.lt_succ_self _), if_pos rfl]
    split_ifs with hb
    · rw [cellAt_above h le_rfl, hb]
    · rw [hl 0 m.cells h]
  · rw [if_neg hxl]
    have hc : cellAt (if b = 0 then m.cells else m.cells ++ [(m.len, b)]) x = cellAt m.cells x := by
      split_ifs
      · rfl
      · exact hx m.cells hxl
    simp only [hc]
    split_ifs <;> first | rfl | omega

/-- Reading one byte after one byte inside the image is replaced. -/
theorem Memory.byte?_poke {m : Memory} {a : Nat} (b : Byte) (h : m.wf = true) (ha : a < m.len) (x : Nat) :
    (m.poke a b).byte? x = if x = a then some b else m.byte? x := by
  simp only [Memory.byte?, Memory.poke, cellAt_setCell h]
  split_ifs <;> first | rfl | omega

end Sys2Proof.Machine
end

