-- ==== Sys2Proof/Laws/State.lean ====
section
/-! SUPPORT. For each named update of the state, what every field is after it. All hold by definition. -/

namespace Sys2Proof.Machine

variable (s : State)

/-! ## `State.finish` -/
@[simp] theorem State.finish_arg0 (c : ResultCode) : (s.finish c).arg0 = s.arg0 := rfl
@[simp] theorem State.finish_arg1 (c : ResultCode) : (s.finish c).arg1 = s.arg1 := rfl
@[simp] theorem State.finish_res0 (c : ResultCode) : (s.finish c).res0 = s.res0 := rfl
@[simp] theorem State.finish_res1 (c : ResultCode) : (s.finish c).res1 = s.res1 := rfl
@[simp] theorem State.finish_status_result (c : ResultCode) :
    (s.finish c).status.result = c := rfl
@[simp] theorem State.finish_status_state (c : ResultCode) :
    (s.finish c).status.state = s.status.state := rfl
@[simp] theorem State.finish_status_dir (c : ResultCode) :
    (s.finish c).status.dir = s.status.dir := rfl
@[simp] theorem State.finish_status_encPending (c : ResultCode) :
    (s.finish c).status.encPending = s.status.encPending := rfl
@[simp] theorem State.finish_status_ovfMark (c : ResultCode) :
    (s.finish c).status.ovfMark = s.status.ovfMark := rfl
@[simp] theorem State.finish_status_scalerReady (c : ResultCode) :
    (s.finish c).status.scalerReady = s.status.scalerReady := rfl
@[simp] theorem State.finish_status_hdrV2 (c : ResultCode) :
    (s.finish c).status.hdrV2 = s.status.hdrV2 := rfl
@[simp] theorem State.finish_status_hdrFamily (c : ResultCode) :
    (s.finish c).status.hdrFamily = s.status.hdrFamily := rfl
@[simp] theorem State.finish_status_discarded (c : ResultCode) :
    (s.finish c).status.discarded = s.status.discarded := rfl
@[simp] theorem State.finish_status_fault (c : ResultCode) :
    (s.finish c).status.fault = s.status.fault := rfl
@[simp] theorem State.finish_status_version (c : ResultCode) :
    (s.finish c).status.version = s.status.version := rfl
@[simp] theorem State.finish_term (c : ResultCode) : (s.finish c).term = s.term := rfl
@[simp] theorem State.finish_streamCfg (c : ResultCode) : (s.finish c).streamCfg = s.streamCfg := rfl
@[simp] theorem State.finish_scaleSel (c : ResultCode) : (s.finish c).scaleSel = s.scaleSel := rfl
@[simp] theorem State.finish_scaleRate (c : ResultCode) : (s.finish c).scaleRate = s.scaleRate := rfl
@[simp] theorem State.finish_scaleClock (c : ResultCode) : (s.finish c).scaleClock = s.scaleClock := rfl
@[simp] theorem State.finish_encRes (c : ResultCode) : (s.finish c).encRes = s.encRes := rfl
@[simp] theorem State.finish_outCount (c : ResultCode) : (s.finish c).outCount = s.outCount := rfl
@[simp] theorem State.finish_inPos (c : ResultCode) : (s.finish c).inPos = s.inPos := rfl
@[simp] theorem State.finish_dec (c : ResultCode) : (s.finish c).dec = s.dec := rfl
@[simp] theorem State.finish_encCount (c : ResultCode) : (s.finish c).encCount = s.encCount := rfl
@[simp] theorem State.finish_inImg (c : ResultCode) : (s.finish c).inImg = s.inImg := rfl
@[simp] theorem State.finish_offered (c : ResultCode) : (s.finish c).offered = s.offered := rfl
@[simp] theorem State.finish_outImg (c : ResultCode) : (s.finish c).outImg = s.outImg := rfl
@[simp] theorem State.finish_par (c : ResultCode) : (s.finish c).par = s.par := rfl
@[simp] theorem State.finish_host (c : ResultCode) : (s.finish c).host = s.host := rfl
@[simp] theorem State.finish_rdata (c : ResultCode) : (s.finish c).rdata = s.rdata := rfl
@[simp] theorem State.finish_sinkDraws (c : ResultCode) : (s.finish c).sinkDraws = s.sinkDraws := rfl
@[simp] theorem State.finish_drawCount (c : ResultCode) : (s.finish c).drawCount = s.drawCount := rfl

/-! ## `State.enter` -/
@[simp] theorem State.enter_arg0 (st : StreamState) : (s.enter st).arg0 = s.arg0 := rfl
@[simp] theorem State.enter_arg1 (st : StreamState) : (s.enter st).arg1 = s.arg1 := rfl
@[simp] theorem State.enter_res0 (st : StreamState) : (s.enter st).res0 = s.res0 := rfl
@[simp] theorem State.enter_res1 (st : StreamState) : (s.enter st).res1 = s.res1 := rfl
@[simp] theorem State.enter_status_result (st : StreamState) :
    (s.enter st).status.result = s.status.result := rfl
@[simp] theorem State.enter_status_state (st : StreamState) :
    (s.enter st).status.state = st := rfl
@[simp] theorem State.enter_status_dir (st : StreamState) :
    (s.enter st).status.dir = s.status.dir := rfl
@[simp] theorem State.enter_status_encPending (st : StreamState) :
    (s.enter st).status.encPending = s.status.encPending := rfl
@[simp] theorem State.enter_status_ovfMark (st : StreamState) :
    (s.enter st).status.ovfMark = s.status.ovfMark := rfl
@[simp] theorem State.enter_status_scalerReady (st : StreamState) :
    (s.enter st).status.scalerReady = s.status.scalerReady := rfl
@[simp] theorem State.enter_status_hdrV2 (st : StreamState) :
    (s.enter st).status.hdrV2 = s.status.hdrV2 := rfl
@[simp] theorem State.enter_status_hdrFamily (st : StreamState) :
    (s.enter st).status.hdrFamily = s.status.hdrFamily := rfl
@[simp] theorem State.enter_status_discarded (st : StreamState) :
    (s.enter st).status.discarded = s.status.discarded := rfl
@[simp] theorem State.enter_status_fault (st : StreamState) :
    (s.enter st).status.fault = s.status.fault := rfl
@[simp] theorem State.enter_status_version (st : StreamState) :
    (s.enter st).status.version = s.status.version := rfl
@[simp] theorem State.enter_term (st : StreamState) : (s.enter st).term = s.term := rfl
@[simp] theorem State.enter_streamCfg (st : StreamState) : (s.enter st).streamCfg = s.streamCfg := rfl
@[simp] theorem State.enter_scaleSel (st : StreamState) : (s.enter st).scaleSel = s.scaleSel := rfl
@[simp] theorem State.enter_scaleRate (st : StreamState) : (s.enter st).scaleRate = s.scaleRate := rfl
@[simp] theorem State.enter_scaleClock (st : StreamState) : (s.enter st).scaleClock = s.scaleClock := rfl
@[simp] theorem State.enter_encRes (st : StreamState) : (s.enter st).encRes = s.encRes := rfl
@[simp] theorem State.enter_outCount (st : StreamState) : (s.enter st).outCount = s.outCount := rfl
@[simp] theorem State.enter_inPos (st : StreamState) : (s.enter st).inPos = s.inPos := rfl
@[simp] theorem State.enter_dec (st : StreamState) : (s.enter st).dec = s.dec := rfl
@[simp] theorem State.enter_encCount (st : StreamState) : (s.enter st).encCount = s.encCount := rfl
@[simp] theorem State.enter_inImg (st : StreamState) : (s.enter st).inImg = s.inImg := rfl
@[simp] theorem State.enter_offered (st : StreamState) : (s.enter st).offered = s.offered := rfl
@[simp] theorem State.enter_outImg (st : StreamState) : (s.enter st).outImg = s.outImg := rfl
@[simp] theorem State.enter_par (st : StreamState) : (s.enter st).par = s.par := rfl
@[simp] theorem State.enter_host (st : StreamState) : (s.enter st).host = s.host := rfl
@[simp] theorem State.enter_rdata (st : StreamState) : (s.enter st).rdata = s.rdata := rfl
@[simp] theorem State.enter_sinkDraws (st : StreamState) : (s.enter st).sinkDraws = s.sinkDraws := rfl
@[simp] theorem State.enter_drawCount (st : StreamState) : (s.enter st).drawCount = s.drawCount := rfl

/-! ## `State.raiseFault` -/
@[simp] theorem State.raiseFault_arg0 : (s.raiseFault).arg0 = s.arg0 := rfl
@[simp] theorem State.raiseFault_arg1 : (s.raiseFault).arg1 = s.arg1 := rfl
@[simp] theorem State.raiseFault_res0 : (s.raiseFault).res0 = s.res0 := rfl
@[simp] theorem State.raiseFault_res1 : (s.raiseFault).res1 = s.res1 := rfl
@[simp] theorem State.raiseFault_status_result :
    (s.raiseFault).status.result = s.status.result := rfl
@[simp] theorem State.raiseFault_status_state :
    (s.raiseFault).status.state = s.status.state := rfl
@[simp] theorem State.raiseFault_status_dir :
    (s.raiseFault).status.dir = s.status.dir := rfl
@[simp] theorem State.raiseFault_status_encPending :
    (s.raiseFault).status.encPending = s.status.encPending := rfl
@[simp] theorem State.raiseFault_status_ovfMark :
    (s.raiseFault).status.ovfMark = s.status.ovfMark := rfl
@[simp] theorem State.raiseFault_status_scalerReady :
    (s.raiseFault).status.scalerReady = s.status.scalerReady := rfl
@[simp] theorem State.raiseFault_status_hdrV2 :
    (s.raiseFault).status.hdrV2 = s.status.hdrV2 := rfl
@[simp] theorem State.raiseFault_status_hdrFamily :
    (s.raiseFault).status.hdrFamily = s.status.hdrFamily := rfl
@[simp] theorem State.raiseFault_status_discarded :
    (s.raiseFault).status.discarded = s.status.discarded := rfl
@[simp] theorem State.raiseFault_status_fault :
    (s.raiseFault).status.fault = true := rfl
@[simp] theorem State.raiseFault_status_version :
    (s.raiseFault).status.version = s.status.version := rfl
@[simp] theorem State.raiseFault_term : (s.raiseFault).term = s.term := rfl
@[simp] theorem State.raiseFault_streamCfg : (s.raiseFault).streamCfg = s.streamCfg := rfl
@[simp] theorem State.raiseFault_scaleSel : (s.raiseFault).scaleSel = s.scaleSel := rfl
@[simp] theorem State.raiseFault_scaleRate : (s.raiseFault).scaleRate = s.scaleRate := rfl
@[simp] theorem State.raiseFault_scaleClock : (s.raiseFault).scaleClock = s.scaleClock := rfl
@[simp] theorem State.raiseFault_encRes : (s.raiseFault).encRes = s.encRes := rfl
@[simp] theorem State.raiseFault_outCount : (s.raiseFault).outCount = s.outCount := rfl
@[simp] theorem State.raiseFault_inPos : (s.raiseFault).inPos = s.inPos := rfl
@[simp] theorem State.raiseFault_dec : (s.raiseFault).dec = s.dec := rfl
@[simp] theorem State.raiseFault_encCount : (s.raiseFault).encCount = s.encCount := rfl
@[simp] theorem State.raiseFault_inImg : (s.raiseFault).inImg = s.inImg := rfl
@[simp] theorem State.raiseFault_offered : (s.raiseFault).offered = s.offered := rfl
@[simp] theorem State.raiseFault_outImg : (s.raiseFault).outImg = s.outImg := rfl
@[simp] theorem State.raiseFault_par : (s.raiseFault).par = s.par := rfl
@[simp] theorem State.raiseFault_host : (s.raiseFault).host = s.host := rfl
@[simp] theorem State.raiseFault_rdata : (s.raiseFault).rdata = s.rdata := rfl
@[simp] theorem State.raiseFault_sinkDraws : (s.raiseFault).sinkDraws = s.sinkDraws := rfl
@[simp] theorem State.raiseFault_drawCount : (s.raiseFault).drawCount = s.drawCount := rfl

/-! ## `State.setPending` -/
@[simp] theorem State.setPending_arg0 (b : Bool) : (s.setPending b).arg0 = s.arg0 := rfl
@[simp] theorem State.setPending_arg1 (b : Bool) : (s.setPending b).arg1 = s.arg1 := rfl
@[simp] theorem State.setPending_res0 (b : Bool) : (s.setPending b).res0 = s.res0 := rfl
@[simp] theorem State.setPending_res1 (b : Bool) : (s.setPending b).res1 = s.res1 := rfl
@[simp] theorem State.setPending_status_result (b : Bool) :
    (s.setPending b).status.result = s.status.result := rfl
@[simp] theorem State.setPending_status_state (b : Bool) :
    (s.setPending b).status.state = s.status.state := rfl
@[simp] theorem State.setPending_status_dir (b : Bool) :
    (s.setPending b).status.dir = s.status.dir := rfl
@[simp] theorem State.setPending_status_encPending (b : Bool) :
    (s.setPending b).status.encPending = b := rfl
@[simp] theorem State.setPending_status_ovfMark (b : Bool) :
    (s.setPending b).status.ovfMark = s.status.ovfMark := rfl
@[simp] theorem State.setPending_status_scalerReady (b : Bool) :
    (s.setPending b).status.scalerReady = s.status.scalerReady := rfl
@[simp] theorem State.setPending_status_hdrV2 (b : Bool) :
    (s.setPending b).status.hdrV2 = s.status.hdrV2 := rfl
@[simp] theorem State.setPending_status_hdrFamily (b : Bool) :
    (s.setPending b).status.hdrFamily = s.status.hdrFamily := rfl
@[simp] theorem State.setPending_status_discarded (b : Bool) :
    (s.setPending b).status.discarded = s.status.discarded := rfl
@[simp] theorem State.setPending_status_fault (b : Bool) :
    (s.setPending b).status.fault = s.status.fault := rfl
@[simp] theorem State.setPending_status_version (b : Bool) :
    (s.setPending b).status.version = s.status.version := rfl
@[simp] theorem State.setPending_term (b : Bool) : (s.setPending b).term = s.term := rfl
@[simp] theorem State.setPending_streamCfg (b : Bool) : (s.setPending b).streamCfg = s.streamCfg := rfl
@[simp] theorem State.setPending_scaleSel (b : Bool) : (s.setPending b).scaleSel = s.scaleSel := rfl
@[simp] theorem State.setPending_scaleRate (b : Bool) : (s.setPending b).scaleRate = s.scaleRate := rfl
@[simp] theorem State.setPending_scaleClock (b : Bool) : (s.setPending b).scaleClock = s.scaleClock := rfl
@[simp] theorem State.setPending_encRes (b : Bool) : (s.setPending b).encRes = s.encRes := rfl
@[simp] theorem State.setPending_outCount (b : Bool) : (s.setPending b).outCount = s.outCount := rfl
@[simp] theorem State.setPending_inPos (b : Bool) : (s.setPending b).inPos = s.inPos := rfl
@[simp] theorem State.setPending_dec (b : Bool) : (s.setPending b).dec = s.dec := rfl
@[simp] theorem State.setPending_encCount (b : Bool) : (s.setPending b).encCount = s.encCount := rfl
@[simp] theorem State.setPending_inImg (b : Bool) : (s.setPending b).inImg = s.inImg := rfl
@[simp] theorem State.setPending_offered (b : Bool) : (s.setPending b).offered = s.offered := rfl
@[simp] theorem State.setPending_outImg (b : Bool) : (s.setPending b).outImg = s.outImg := rfl
@[simp] theorem State.setPending_par (b : Bool) : (s.setPending b).par = s.par := rfl
@[simp] theorem State.setPending_host (b : Bool) : (s.setPending b).host = s.host := rfl
@[simp] theorem State.setPending_rdata (b : Bool) : (s.setPending b).rdata = s.rdata := rfl
@[simp] theorem State.setPending_sinkDraws (b : Bool) : (s.setPending b).sinkDraws = s.sinkDraws := rfl
@[simp] theorem State.setPending_drawCount (b : Bool) : (s.setPending b).drawCount = s.drawCount := rfl

/-! ## `State.setMark` -/
@[simp] theorem State.setMark_arg0 (b : Bool) : (s.setMark b).arg0 = s.arg0 := rfl
@[simp] theorem State.setMark_arg1 (b : Bool) : (s.setMark b).arg1 = s.arg1 := rfl
@[simp] theorem State.setMark_res0 (b : Bool) : (s.setMark b).res0 = s.res0 := rfl
@[simp] theorem State.setMark_res1 (b : Bool) : (s.setMark b).res1 = s.res1 := rfl
@[simp] theorem State.setMark_status_result (b : Bool) :
    (s.setMark b).status.result = s.status.result := rfl
@[simp] theorem State.setMark_status_state (b : Bool) :
    (s.setMark b).status.state = s.status.state := rfl
@[simp] theorem State.setMark_status_dir (b : Bool) :
    (s.setMark b).status.dir = s.status.dir := rfl
@[simp] theorem State.setMark_status_encPending (b : Bool) :
    (s.setMark b).status.encPending = s.status.encPending := rfl
@[simp] theorem State.setMark_status_ovfMark (b : Bool) :
    (s.setMark b).status.ovfMark = b := rfl
@[simp] theorem State.setMark_status_scalerReady (b : Bool) :
    (s.setMark b).status.scalerReady = s.status.scalerReady := rfl
@[simp] theorem State.setMark_status_hdrV2 (b : Bool) :
    (s.setMark b).status.hdrV2 = s.status.hdrV2 := rfl
@[simp] theorem State.setMark_status_hdrFamily (b : Bool) :
    (s.setMark b).status.hdrFamily = s.status.hdrFamily := rfl
@[simp] theorem State.setMark_status_discarded (b : Bool) :
    (s.setMark b).status.discarded = s.status.discarded := rfl
@[simp] theorem State.setMark_status_fault (b : Bool) :
    (s.setMark b).status.fault = s.status.fault := rfl
@[simp] theorem State.setMark_status_version (b : Bool) :
    (s.setMark b).status.version = s.status.version := rfl
@[simp] theorem State.setMark_term (b : Bool) : (s.setMark b).term = s.term := rfl
@[simp] theorem State.setMark_streamCfg (b : Bool) : (s.setMark b).streamCfg = s.streamCfg := rfl
@[simp] theorem State.setMark_scaleSel (b : Bool) : (s.setMark b).scaleSel = s.scaleSel := rfl
@[simp] theorem State.setMark_scaleRate (b : Bool) : (s.setMark b).scaleRate = s.scaleRate := rfl
@[simp] theorem State.setMark_scaleClock (b : Bool) : (s.setMark b).scaleClock = s.scaleClock := rfl
@[simp] theorem State.setMark_encRes (b : Bool) : (s.setMark b).encRes = s.encRes := rfl
@[simp] theorem State.setMark_outCount (b : Bool) : (s.setMark b).outCount = s.outCount := rfl
@[simp] theorem State.setMark_inPos (b : Bool) : (s.setMark b).inPos = s.inPos := rfl
@[simp] theorem State.setMark_dec (b : Bool) : (s.setMark b).dec = s.dec := rfl
@[simp] theorem State.setMark_encCount (b : Bool) : (s.setMark b).encCount = s.encCount := rfl
@[simp] theorem State.setMark_inImg (b : Bool) : (s.setMark b).inImg = s.inImg := rfl
@[simp] theorem State.setMark_offered (b : Bool) : (s.setMark b).offered = s.offered := rfl
@[simp] theorem State.setMark_outImg (b : Bool) : (s.setMark b).outImg = s.outImg := rfl
@[simp] theorem State.setMark_par (b : Bool) : (s.setMark b).par = s.par := rfl
@[simp] theorem State.setMark_host (b : Bool) : (s.setMark b).host = s.host := rfl
@[simp] theorem State.setMark_rdata (b : Bool) : (s.setMark b).rdata = s.rdata := rfl
@[simp] theorem State.setMark_sinkDraws (b : Bool) : (s.setMark b).sinkDraws = s.sinkDraws := rfl
@[simp] theorem State.setMark_drawCount (b : Bool) : (s.setMark b).drawCount = s.drawCount := rfl

/-! ## `State.results` -/
@[simp] theorem State.results_arg0 (a b : Word) : (s.results a b).arg0 = s.arg0 := rfl
@[simp] theorem State.results_arg1 (a b : Word) : (s.results a b).arg1 = s.arg1 := rfl
@[simp] theorem State.results_res0 (a b : Word) : (s.results a b).res0 = a := rfl
@[simp] theorem State.results_res1 (a b : Word) : (s.results a b).res1 = b := rfl
@[simp] theorem State.results_status (a b : Word) : (s.results a b).status = s.status := rfl
@[simp] theorem State.results_term (a b : Word) : (s.results a b).term = s.term := rfl
@[simp] theorem State.results_streamCfg (a b : Word) : (s.results a b).streamCfg = s.streamCfg := rfl
@[simp] theorem State.results_scaleSel (a b : Word) : (s.results a b).scaleSel = s.scaleSel := rfl
@[simp] theorem State.results_scaleRate (a b : Word) : (s.results a b).scaleRate = s.scaleRate := rfl
@[simp] theorem State.results_scaleClock (a b : Word) : (s.results a b).scaleClock = s.scaleClock := rfl
@[simp] theorem State.results_encRes (a b : Word) : (s.results a b).encRes = s.encRes := rfl
@[simp] theorem State.results_outCount (a b : Word) : (s.results a b).outCount = s.outCount := rfl
@[simp] theorem State.results_inPos (a b : Word) : (s.results a b).inPos = s.inPos := rfl
@[simp] theorem State.results_dec (a b : Word) : (s.results a b).dec = s.dec := rfl
@[simp] theorem State.results_encCount (a b : Word) : (s.results a b).encCount = s.encCount := rfl
@[simp] theorem State.results_inImg (a b : Word) : (s.results a b).inImg = s.inImg := rfl
@[simp] theorem State.results_offered (a b : Word) : (s.results a b).offered = s.offered := rfl
@[simp] theorem State.results_outImg (a b : Word) : (s.results a b).outImg = s.outImg := rfl
@[simp] theorem State.results_par (a b : Word) : (s.results a b).par = s.par := rfl
@[simp] theorem State.results_host (a b : Word) : (s.results a b).host = s.host := rfl
@[simp] theorem State.results_rdata (a b : Word) : (s.results a b).rdata = s.rdata := rfl
@[simp] theorem State.results_sinkDraws (a b : Word) : (s.results a b).sinkDraws = s.sinkDraws := rfl
@[simp] theorem State.results_drawCount (a b : Word) : (s.results a b).drawCount = s.drawCount := rfl

/-! ## `State.beginRecord` -/
@[simp] theorem State.beginRecord_arg0 : (s.beginRecord).arg0 = s.arg0 := rfl
@[simp] theorem State.beginRecord_arg1 : (s.beginRecord).arg1 = s.arg1 := rfl
@[simp] theorem State.beginRecord_res0 : (s.beginRecord).res0 = s.res0 := rfl
@[simp] theorem State.beginRecord_res1 : (s.beginRecord).res1 = s.res1 := rfl
@[simp] theorem State.beginRecord_status : (s.beginRecord).status = s.status := rfl
@[simp] theorem State.beginRecord_term : (s.beginRecord).term = s.term := rfl
@[simp] theorem State.beginRecord_streamCfg : (s.beginRecord).streamCfg = s.streamCfg := rfl
@[simp] theorem State.beginRecord_scaleSel : (s.beginRecord).scaleSel = s.scaleSel := rfl
@[simp] theorem State.beginRecord_scaleRate : (s.beginRecord).scaleRate = s.scaleRate := rfl
@[simp] theorem State.beginRecord_scaleClock : (s.beginRecord).scaleClock = s.scaleClock := rfl
@[simp] theorem State.beginRecord_encRes : (s.beginRecord).encRes = s.encRes := rfl
@[simp] theorem State.beginRecord_outCount : (s.beginRecord).outCount = s.outCount := rfl
@[simp] theorem State.beginRecord_inPos : (s.beginRecord).inPos = s.inPos := rfl
@[simp] theorem State.beginRecord_dec : (s.beginRecord).dec = { start := s.inPos, acc := 0, zeros := 0 } := rfl
@[simp] theorem State.beginRecord_encCount : (s.beginRecord).encCount = s.encCount := rfl
@[simp] theorem State.beginRecord_inImg : (s.beginRecord).inImg = s.inImg := rfl
@[simp] theorem State.beginRecord_offered : (s.beginRecord).offered = s.offered := rfl
@[simp] theorem State.beginRecord_outImg : (s.beginRecord).outImg = s.outImg := rfl
@[simp] theorem State.beginRecord_par : (s.beginRecord).par = s.par := rfl
@[simp] theorem State.beginRecord_host : (s.beginRecord).host = s.host := rfl
@[simp] theorem State.beginRecord_rdata : (s.beginRecord).rdata = s.rdata := rfl
@[simp] theorem State.beginRecord_sinkDraws : (s.beginRecord).sinkDraws = s.sinkDraws := rfl
@[simp] theorem State.beginRecord_drawCount : (s.beginRecord).drawCount = s.drawCount := rfl

/-! ## `State.endRecord` -/
@[simp] theorem State.endRecord_arg0 : (s.endRecord).arg0 = s.arg0 := rfl
@[simp] theorem State.endRecord_arg1 : (s.endRecord).arg1 = s.arg1 := rfl
@[simp] theorem State.endRecord_res0 : (s.endRecord).res0 = s.res0 := rfl
@[simp] theorem State.endRecord_res1 : (s.endRecord).res1 = s.res1 := rfl
@[simp] theorem State.endRecord_status : (s.endRecord).status = s.status := rfl
@[simp] theorem State.endRecord_term : (s.endRecord).term = s.term := rfl
@[simp] theorem State.endRecord_streamCfg : (s.endRecord).streamCfg = s.streamCfg := rfl
@[simp] theorem State.endRecord_scaleSel : (s.endRecord).scaleSel = s.scaleSel := rfl
@[simp] theorem State.endRecord_scaleRate : (s.endRecord).scaleRate = s.scaleRate := rfl
@[simp] theorem State.endRecord_scaleClock : (s.endRecord).scaleClock = s.scaleClock := rfl
@[simp] theorem State.endRecord_encRes : (s.endRecord).encRes = s.encRes := rfl
@[simp] theorem State.endRecord_outCount : (s.endRecord).outCount = s.outCount := rfl
@[simp] theorem State.endRecord_inPos : (s.endRecord).inPos = s.inPos := rfl
@[simp] theorem State.endRecord_dec : (s.endRecord).dec = DecWork.idle := rfl
@[simp] theorem State.endRecord_encCount : (s.endRecord).encCount = s.encCount := rfl
@[simp] theorem State.endRecord_inImg : (s.endRecord).inImg = s.inImg := rfl
@[simp] theorem State.endRecord_offered : (s.endRecord).offered = s.offered := rfl
@[simp] theorem State.endRecord_outImg : (s.endRecord).outImg = s.outImg := rfl
@[simp] theorem State.endRecord_par : (s.endRecord).par = s.par := rfl
@[simp] theorem State.endRecord_host : (s.endRecord).host = s.host := rfl
@[simp] theorem State.endRecord_rdata : (s.endRecord).rdata = s.rdata := rfl
@[simp] theorem State.endRecord_sinkDraws : (s.endRecord).sinkDraws = s.sinkDraws := rfl
@[simp] theorem State.endRecord_drawCount : (s.endRecord).drawCount = s.drawCount := rfl

/-! ## `State.consume` -/
@[simp] theorem State.consume_arg0 (n : Nat) : (s.consume n).arg0 = s.arg0 := rfl
@[simp] theorem State.consume_arg1 (n : Nat) : (s.consume n).arg1 = s.arg1 := rfl
@[simp] theorem State.consume_res0 (n : Nat) : (s.consume n).res0 = s.res0 := rfl
@[simp] theorem State.consume_res1 (n : Nat) : (s.consume n).res1 = s.res1 := rfl
@[simp] theorem State.consume_status (n : Nat) : (s.consume n).status = s.status := rfl
@[simp] theorem State.consume_term (n : Nat) : (s.consume n).term = s.term := rfl
@[simp] theorem State.consume_streamCfg (n : Nat) : (s.consume n).streamCfg = s.streamCfg := rfl
@[simp] theorem State.consume_scaleSel (n : Nat) : (s.consume n).scaleSel = s.scaleSel := rfl
@[simp] theorem State.consume_scaleRate (n : Nat) : (s.consume n).scaleRate = s.scaleRate := rfl
@[simp] theorem State.consume_scaleClock (n : Nat) : (s.consume n).scaleClock = s.scaleClock := rfl
@[simp] theorem State.consume_encRes (n : Nat) : (s.consume n).encRes = s.encRes := rfl
@[simp] theorem State.consume_outCount (n : Nat) : (s.consume n).outCount = s.outCount := rfl
@[simp] theorem State.consume_inPos (n : Nat) : (s.consume n).inPos = s.inPos + BitVec.ofNat 32 n := rfl
@[simp] theorem State.consume_dec (n : Nat) : (s.consume n).dec = s.dec := rfl
@[simp] theorem State.consume_encCount (n : Nat) : (s.consume n).encCount = s.encCount := rfl
@[simp] theorem State.consume_inImg (n : Nat) : (s.consume n).inImg = s.inImg := rfl
@[simp] theorem State.consume_offered (n : Nat) : (s.consume n).offered = s.offered := rfl
@[simp] theorem State.consume_outImg (n : Nat) : (s.consume n).outImg = s.outImg := rfl
@[simp] theorem State.consume_par (n : Nat) : (s.consume n).par = s.par := rfl
@[simp] theorem State.consume_host (n : Nat) : (s.consume n).host = s.host := rfl
@[simp] theorem State.consume_rdata (n : Nat) : (s.consume n).rdata = s.rdata := rfl
@[simp] theorem State.consume_sinkDraws (n : Nat) : (s.consume n).sinkDraws = s.sinkDraws := rfl
@[simp] theorem State.consume_drawCount (n : Nat) : (s.consume n).drawCount = s.drawCount := rfl

/-! ## `State.skipDraws` -/
@[simp] theorem State.skipDraws_arg0 (n : Nat) : (s.skipDraws n).arg0 = s.arg0 := rfl
@[simp] theorem State.skipDraws_arg1 (n : Nat) : (s.skipDraws n).arg1 = s.arg1 := rfl
@[simp] theorem State.skipDraws_res0 (n : Nat) : (s.skipDraws n).res0 = s.res0 := rfl
@[simp] theorem State.skipDraws_res1 (n : Nat) : (s.skipDraws n).res1 = s.res1 := rfl
@[simp] theorem State.skipDraws_status (n : Nat) : (s.skipDraws n).status = s.status := rfl
@[simp] theorem State.skipDraws_term (n : Nat) : (s.skipDraws n).term = s.term := rfl
@[simp] theorem State.skipDraws_streamCfg (n : Nat) : (s.skipDraws n).streamCfg = s.streamCfg := rfl
@[simp] theorem State.skipDraws_scaleSel (n : Nat) : (s.skipDraws n).scaleSel = s.scaleSel := rfl
@[simp] theorem State.skipDraws_scaleRate (n : Nat) : (s.skipDraws n).scaleRate = s.scaleRate := rfl
@[simp] theorem State.skipDraws_scaleClock (n : Nat) : (s.skipDraws n).scaleClock = s.scaleClock := rfl
@[simp] theorem State.skipDraws_encRes (n : Nat) : (s.skipDraws n).encRes = s.encRes := rfl
@[simp] theorem State.skipDraws_outCount (n : Nat) : (s.skipDraws n).outCount = s.outCount := rfl
@[simp] theorem State.skipDraws_inPos (n : Nat) : (s.skipDraws n).inPos = s.inPos := rfl
@[simp] theorem State.skipDraws_dec (n : Nat) : (s.skipDraws n).dec = s.dec := rfl
@[simp] theorem State.skipDraws_encCount (n : Nat) : (s.skipDraws n).encCount = s.encCount := rfl
@[simp] theorem State.skipDraws_inImg (n : Nat) : (s.skipDraws n).inImg = s.inImg := rfl
@[simp] theorem State.skipDraws_offered (n : Nat) : (s.skipDraws n).offered = s.offered := rfl
@[simp] theorem State.skipDraws_outImg (n : Nat) : (s.skipDraws n).outImg = s.outImg := rfl
@[simp] theorem State.skipDraws_par (n : Nat) : (s.skipDraws n).par = s.par := rfl
@[simp] theorem State.skipDraws_host (n : Nat) : (s.skipDraws n).host = s.host := rfl
@[simp] theorem State.skipDraws_rdata (n : Nat) : (s.skipDraws n).rdata = s.rdata := rfl
@[simp] theorem State.skipDraws_sinkDraws (n : Nat) : (s.skipDraws n).sinkDraws = s.sinkDraws.drop n := rfl
@[simp] theorem State.skipDraws_drawCount (n : Nat) : (s.skipDraws n).drawCount = s.drawCount + n := rfl

/-! ## `State.withNext` -/
@[simp] theorem State.withNext_arg0 (op : BusOp) : (s.withNext op).arg0 = s.arg0 := rfl
@[simp] theorem State.withNext_arg1 (op : BusOp) : (s.withNext op).arg1 = s.arg1 := rfl
@[simp] theorem State.withNext_res0 (op : BusOp) : (s.withNext op).res0 = s.res0 := rfl
@[simp] theorem State.withNext_res1 (op : BusOp) : (s.withNext op).res1 = s.res1 := rfl
@[simp] theorem State.withNext_status (op : BusOp) : (s.withNext op).status = s.status := rfl
@[simp] theorem State.withNext_term (op : BusOp) : (s.withNext op).term = s.term := rfl
@[simp] theorem State.withNext_streamCfg (op : BusOp) : (s.withNext op).streamCfg = s.streamCfg := rfl
@[simp] theorem State.withNext_scaleSel (op : BusOp) : (s.withNext op).scaleSel = s.scaleSel := rfl
@[simp] theorem State.withNext_scaleRate (op : BusOp) : (s.withNext op).scaleRate = s.scaleRate := rfl
@[simp] theorem State.withNext_scaleClock (op : BusOp) : (s.withNext op).scaleClock = s.scaleClock := rfl
@[simp] theorem State.withNext_encRes (op : BusOp) : (s.withNext op).encRes = s.encRes := rfl
@[simp] theorem State.withNext_outCount (op : BusOp) : (s.withNext op).outCount = s.outCount := rfl
@[simp] theorem State.withNext_inPos (op : BusOp) : (s.withNext op).inPos = s.inPos := rfl
@[simp] theorem State.withNext_dec (op : BusOp) : (s.withNext op).dec = s.dec := rfl
@[simp] theorem State.withNext_encCount (op : BusOp) : (s.withNext op).encCount = s.encCount := rfl
@[simp] theorem State.withNext_inImg (op : BusOp) : (s.withNext op).inImg = s.inImg := rfl
@[simp] theorem State.withNext_offered (op : BusOp) : (s.withNext op).offered = s.offered := rfl
@[simp] theorem State.withNext_outImg (op : BusOp) : (s.withNext op).outImg = s.outImg := rfl
@[simp] theorem State.withNext_par (op : BusOp) : (s.withNext op).par = s.par := rfl
@[simp] theorem State.withNext_host (op : BusOp) : (s.withNext op).host = op :: s.host := rfl
@[simp] theorem State.withNext_rdata (op : BusOp) : (s.withNext op).rdata = s.rdata := rfl
@[simp] theorem State.withNext_sinkDraws (op : BusOp) : (s.withNext op).sinkDraws = s.sinkDraws := rfl
@[simp] theorem State.withNext_drawCount (op : BusOp) : (s.withNext op).drawCount = s.drawCount := rfl

/-! ## `State.deliver` -/

/-- Everything the delivery of an attached image can do (log 19). -/
theorem State.deliver_cases (i : Instr) :
    s.deliver i = s ∨
    (i = .openRead ∧ (s.status.state = .idle ∨ s.status.state = .closed) ∧ cfgValid s.arg0 = true ∧
      ∃ m, s.offered = some m ∧ s.deliver i = { s with inImg := m, offered := none }) := by
  unfold State.deliver
  cases ho : s.offered with
  | none => exact .inl rfl
  | some m =>
    split_ifs with h
    · exact .inr ⟨h.1, h.2.1, h.2.2, m, rfl, rfl⟩
    · exact .inl rfl

/-- Only OPEN_READ is given an attached image. -/
theorem State.deliver_of_ne {i : Instr} (h : i ≠ .openRead) : s.deliver i = s := by
  obtain he | ⟨hi, -⟩ := s.deliver_cases i
  · exact he
  · exact absurd hi h

@[simp] theorem State.deliver_arg0 (i : Instr) : (s.deliver i).arg0 = s.arg0 := by
  obtain h | ⟨-, -, -, m, -, h⟩ := s.deliver_cases i <;> rw [h]
@[simp] theorem State.deliver_arg1 (i : Instr) : (s.deliver i).arg1 = s.arg1 := by
  obtain h | ⟨-, -, -, m, -, h⟩ := s.deliver_cases i <;> rw [h]
@[simp] theorem State.deliver_res0 (i : Instr) : (s.deliver i).res0 = s.res0 := by
  obtain h | ⟨-, -, -, m, -, h⟩ := s.deliver_cases i <;> rw [h]
@[simp] theorem State.deliver_res1 (i : Instr) : (s.deliver i).res1 = s.res1 := by
  obtain h | ⟨-, -, -, m, -, h⟩ := s.deliver_cases i <;> rw [h]
@[simp] theorem State.deliver_status (i : Instr) : (s.deliver i).status = s.status := by
  obtain h | ⟨-, -, -, m, -, h⟩ := s.deliver_cases i <;> rw [h]
@[simp] theorem State.deliver_term (i : Instr) : (s.deliver i).term = s.term := by
  obtain h | ⟨-, -, -, m, -, h⟩ := s.deliver_cases i <;> rw [h]
@[simp] theorem State.deliver_streamCfg (i : Instr) : (s.deliver i).streamCfg = s.streamCfg := by
  obtain h | ⟨-, -, -, m, -, h⟩ := s.deliver_cases i <;> rw [h]
@[simp] theorem State.deliver_scaleSel (i : Instr) : (s.deliver i).scaleSel = s.scaleSel := by
  obtain h | ⟨-, -, -, m, -, h⟩ := s.deliver_cases i <;> rw [h]
@[simp] theorem State.deliver_scaleRate (i : Instr) : (s.deliver i).scaleRate = s.scaleRate := by
  obtain h | ⟨-, -, -, m, -, h⟩ := s.deliver_cases i <;> rw [h]
@[simp] theorem State.deliver_scaleClock (i : Instr) : (s.deliver i).scaleClock = s.scaleClock := by
  obtain h | ⟨-, -, -, m, -, h⟩ := s.deliver_cases i <;> rw [h]
@[simp] theorem State.deliver_encRes (i : Instr) : (s.deliver i).encRes = s.encRes := by
  obtain h | ⟨-, -, -, m, -, h⟩ := s.deliver_cases i <;> rw [h]
@[simp] theorem State.deliver_outCount (i : Instr) : (s.deliver i).outCount = s.outCount := by
  obtain h | ⟨-, -, -, m, -, h⟩ := s.deliver_cases i <;> rw [h]
@[simp] theorem State.deliver_inPos (i : Instr) : (s.deliver i).inPos = s.inPos := by
  obtain h | ⟨-, -, -, m, -, h⟩ := s.deliver_cases i <;> rw [h]
@[simp] theorem State.deliver_dec (i : Instr) : (s.deliver i).dec = s.dec := by
  obtain h | ⟨-, -, -, m, -, h⟩ := s.deliver_cases i <;> rw [h]
@[simp] theorem State.deliver_encCount (i : Instr) : (s.deliver i).encCount = s.encCount := by
  obtain h | ⟨-, -, -, m, -, h⟩ := s.deliver_cases i <;> rw [h]
@[simp] theorem State.deliver_outImg (i : Instr) : (s.deliver i).outImg = s.outImg := by
  obtain h | ⟨-, -, -, m, -, h⟩ := s.deliver_cases i <;> rw [h]
@[simp] theorem State.deliver_par (i : Instr) : (s.deliver i).par = s.par := by
  obtain h | ⟨-, -, -, m, -, h⟩ := s.deliver_cases i <;> rw [h]
@[simp] theorem State.deliver_host (i : Instr) : (s.deliver i).host = s.host := by
  obtain h | ⟨-, -, -, m, -, h⟩ := s.deliver_cases i <;> rw [h]
@[simp] theorem State.deliver_rdata (i : Instr) : (s.deliver i).rdata = s.rdata := by
  obtain h | ⟨-, -, -, m, -, h⟩ := s.deliver_cases i <;> rw [h]
@[simp] theorem State.deliver_sinkDraws (i : Instr) : (s.deliver i).sinkDraws = s.sinkDraws := by
  obtain h | ⟨-, -, -, m, -, h⟩ := s.deliver_cases i <;> rw [h]
@[simp] theorem State.deliver_drawCount (i : Instr) : (s.deliver i).drawCount = s.drawCount := by
  obtain h | ⟨-, -, -, m, -, h⟩ := s.deliver_cases i <;> rw [h]

/-! ## Updates made of these, as records -/

theorem State.cancel_eq : s.cancel =
    { s with status := { s.status with state := .interrupted, result := .interrupted } } := rfl

theorem State.overLimit_eq : s.overLimit =
    { s with status := { s.status with fault := true, state := .error, result := .genericFailure } } := rfl

theorem State.decoded_eq (cycles : Word) (form : Nat) : s.decoded cycles form =
    { s with
      res0 := cycles, res1 := recInfo s.consumed form, dec := DecWork.idle
      status := { s.status with result := .ok } } := rfl

theorem State.endOfInput_eq : s.endOfInput =
    { s with
      res0 := 0, res1 := recInfo s.consumed 0, dec := DecWork.idle
      status := { s.status with result := .endOfStream } } := rfl

theorem State.encReport_eq (c : ResultCode) : s.encReport c =
    { s with
      res0 := s.encCount, res1 := s.encRes, encCount := 0
      status := { s.status with result := c } } := rfl

theorem State.encComplete_eq : s.encComplete =
    { s with
      encRes := 0, res0 := s.encCount, res1 := 0, encCount := 0
      status := { s.status with encPending := false, result := .ok } } := rfl

theorem State.encStop_eq : s.encStop =
    { s with
      res0 := s.encCount, res1 := s.encRes, encCount := 0
      status := { s.status with encPending := true, result := .ok } } := rfl

theorem State.encSinkFailed_eq : s.encSinkFailed =
    { s with
      res0 := s.encCount, res1 := s.encRes, encCount := 0
      status := { s.status with state := .error, result := .backendError } } := rfl

theorem State.encOverLimit_eq : s.encOverLimit =
    { s with
      res0 := s.encCount, res1 := s.encRes, encCount := 0
      status := { s.status with fault := true, state := .error, result := .genericFailure } } := rfl

theorem State.loadPulse_eq : s.loadPulse =
    { s with encRes := s.arg0, status := { s.status with encPending := true } } := rfl

/-! ## Draws -/
@[simp] theorem State.skipDraws_zero : s.skipDraws 0 = s := by simp [State.skipDraws]
@[simp] theorem State.skipDraws_skipDraws (m n : Nat) :
    (s.skipDraws m).skipDraws n = s.skipDraws (m + n) := by
  simp [State.skipDraws, Nat.add_assoc]
@[simp] theorem State.upcomingDraw_skipDraws (m k : Nat) :
    (s.skipDraws m).upcomingDraw k = s.upcomingDraw (m + k) := by
  simp [State.upcomingDraw, Nat.add_assoc]

end Sys2Proof.Machine
end

