-- ==== Sys2Proof/Laws/Ops.lean ====
section
/-! SUPPORT. For each shared operation, once, everything it can do: the lemmas the proofs cite instead of
unfolding the operation. -/

namespace Sys2Proof.Machine

/-! ## Gates -/

/-- What a pulse command can do before its work (R146, R167, R168). -/
theorem pulseGate_cases {home : StreamState} {work : State → Out} {s : State} {o : Out}
    (h : pulseGate home work s = o) :
    (s.status.state = .interrupted ∧ o = .next (s.finish .interrupted)) ∨
    (s.status.state = .error ∧ o = .next (s.finish .genericFailure)) ∨
    (s.status.state ≠ .interrupted ∧ s.status.state ≠ .error ∧ s.status.state ≠ home ∧
      o = .next (s.finish .invalidArguments)) ∨
    (s.status.state = home ∧ s.term = true ∧ o = .next s.cancel) ∨
    (s.status.state = home ∧ s.term = false ∧ o = work s) := by
  unfold pulseGate ended at h
  split_ifs at h with h1 h2 h3 h4
  · exact .inl ⟨h1, h.symm⟩
  · exact .inr (.inl ⟨h2, h.symm⟩)
  · exact .inr (.inr (.inl ⟨h1, h2, h3, h.symm⟩))
  · exact .inr (.inr (.inr (.inl ⟨not_not.1 h3, h4, h.symm⟩)))
  · exact .inr (.inr (.inr (.inr ⟨not_not.1 h3, by simpa using h4, h.symm⟩)))

/-- A pulse command in its own state with TERM clear does its work. -/
theorem pulseGate_ready {home : StreamState} {work : State → Out} {s : State}
    (hs : s.status.state = home) (ht : s.term = false) (h1 : home ≠ .interrupted) (h2 : home ≠ .error) :
    pulseGate home work s = work s := by
  subst hs
  simp [pulseGate, h1, h2, ht]

/-- What an OPEN command can do before its work (R115, R120, R125). -/
theorem openGate_cases {work : State → Out} {s : State} {o : Out} (h : openGate work s = o) :
    (s.status.state ≠ .idle ∧ s.status.state ≠ .closed ∧ o = .next (s.finish .invalidArguments)) ∨
    ((s.status.state = .idle ∨ s.status.state = .closed) ∧ cfgValid s.arg0 = false ∧
      o = .next (s.finish .invalidArguments)) ∨
    ((s.status.state = .idle ∨ s.status.state = .closed) ∧ cfgValid s.arg0 = true ∧ o = work s) := by
  unfold openGate ended at h
  split_ifs at h with h1 h2
  · exact .inl ⟨h1.1, h1.2, h.symm⟩
  · exact .inr (.inl ⟨by tauto, by simpa using h2, h.symm⟩)
  · exact .inr (.inr ⟨by tauto, by simpa using h2, h.symm⟩)

/-! ## Sink writes -/

/-- A sink write at the end of the image (R16). -/
theorem memWrite_append {a : Nat} (bs : List Byte) {s : State} (h : a = s.outImg.len) :
    memWrite a bs s = .ok (s.upcomingDraw 0,
      if s.upcomingDraw 0 then { s.skipDraws 1 with outImg := s.outImg.append bs }
      else s.skipDraws 1) := by
  simp [memWrite, h]

/-- A sink write inside the image (R16). -/
theorem memWrite_patch {a : Nat} {bs : List Byte} {s : State} (h : a ≠ s.outImg.len)
    (h' : a + bs.length ≤ s.outImg.len) :
    memWrite a bs s = .ok (s.upcomingDraw 0 && s.par.sinkSeekable,
      if s.upcomingDraw 0 && s.par.sinkSeekable then
        { s.skipDraws 1 with outImg := s.outImg.patch a bs }
      else s.skipDraws 1) := by
  simp [memWrite, h, h']

/-- Everything a sink write can do: nothing but `OUT_IMG` and the draws changes, and the image only if the
write succeeds (R16, R69). -/
theorem memWrite_cases {a : Nat} {bs : List Byte} {s t : State} {ok : Bool}
    (h : memWrite a bs s = .ok (ok, t)) :
    (ok = false ∧ t = s.skipDraws 1) ∨
    (ok = true ∧ a = s.outImg.len ∧ t = { s.skipDraws 1 with outImg := s.outImg.append bs }) ∨
    (ok = true ∧ a ≠ s.outImg.len ∧ a + bs.length ≤ s.outImg.len ∧ s.par.sinkSeekable = true ∧
      t = { s.skipDraws 1 with outImg := s.outImg.patch a bs }) := by
  by_cases h1 : a = s.outImg.len
  · rw [memWrite_append bs h1] at h
    obtain ⟨rfl, rfl⟩ := Prod.mk.inj (Except.ok.inj h)
    cases s.upcomingDraw 0
    · exact .inl ⟨rfl, rfl⟩
    · exact .inr (.inl ⟨rfl, h1, rfl⟩)
  · by_cases h2 : a + bs.length ≤ s.outImg.len
    · rw [memWrite_patch h1 h2] at h
      obtain ⟨rfl, rfl⟩ := Prod.mk.inj (Except.ok.inj h)
      cases s.upcomingDraw 0
      · exact .inl ⟨rfl, rfl⟩
      · cases s.par.sinkSeekable
        · exact .inl ⟨rfl, rfl⟩
        · exact .inr (.inr ⟨rfl, h1, h2, rfl, rfl⟩)
    · simp [memWrite, h1, h2] at h

/-- A sink write stops the machine only where R16 defines none. -/
theorem memWrite_error {a : Nat} {bs : List Byte} {s : State} {f : Fault}
    (h : memWrite a bs s = .error f) :
    f = .sinkHole ∧ a ≠ s.outImg.len ∧ s.outImg.len < a + bs.length := by
  unfold memWrite at h
  split_ifs at h with h1 h2
  exact ⟨by simpa using h.symm, h1, by omega⟩

/-! ## One record -/

/-- Everything one turn of REC_DECODE can do (R148). -/
theorem decTurn_cases (s : State) :
    (s.inImg.len < s.inPos.toNat ∧ decTurn s = .stop .sourceHole) ∨
    (s.inPos.toNat ≤ s.inImg.len ∧ ∃ u, s.unitAtCursor = .ok u ∧ decTurn s = decUnit u s) ∨
    (s.inPos.toNat ≤ s.inImg.len ∧ s.unitAtCursor = .error .truncated ∧
      decTurn s = .done { s with inPos := BitVec.ofNat 32 s.inImg.len }.endOfInput) ∨
    (s.inPos.toNat ≤ s.inImg.len ∧ (∃ r, r ≠ .truncated ∧ s.unitAtCursor = .error r) ∧
      decTurn s = .done s.endOfInput) := by
  unfold decTurn
  by_cases h : s.inImg.len < s.inPos.toNat
  · exact .inl ⟨h, by simp [h]⟩
  · have hle : s.inPos.toNat ≤ s.inImg.len := by omega
    rw [if_neg h]
    cases hu : s.unitAtCursor with
    | ok u => exact .inr (.inl ⟨hle, u, rfl, rfl⟩)
    | error r =>
      by_cases hr : r = .truncated
      · subst hr; exact .inr (.inr (.inl ⟨hle, rfl, rfl⟩))
      · refine .inr (.inr (.inr ⟨hle, ⟨r, hr, rfl⟩, ?_⟩))
        cases r <;> first | rfl | exact absurd rfl hr

/-- A zero byte ends the command only by the accumulator fault (R157). -/
theorem decZero_cases (s : State) :
    (cfgOverwrite s.streamCfg = true ∧
      decZero s = .more { s with
        inPos := s.inPos + BitVec.ofNat 32 1, dec := { s.dec with zeros := s.dec.zeros + 1 } }) ∨
    (cfgOverwrite s.streamCfg = false ∧ wordMax < s.dec.acc.toNat + 2048 ∧
      decZero s = .done ((s.consume 1).endRecord.overLimit)) ∨
    (cfgOverwrite s.streamCfg = false ∧ s.dec.acc.toNat + 2048 ≤ wordMax ∧
      decZero s = .more { s with
        inPos := s.inPos + BitVec.ofNat 32 1
        dec := { s.dec with acc := s.dec.acc + 2048, zeros := s.dec.zeros + 1 } }) := by
  unfold decZero
  cases hc : cfgOverwrite s.streamCfg
  · by_cases h : wordMax < s.dec.acc.toNat + 2048
    · exact .inr (.inl ⟨rfl, h, by simp [h]; rfl⟩)
    · exact .inr (.inr ⟨rfl, by omega, by simp [h]⟩)
  · exact .inl ⟨rfl, rfl⟩

/-- Everything the emission of one record can do, in the order capacity, counter, sink (R170, R219). -/
theorem encUnit_cases (u : RecUnit) (s : State) :
    (s.arg1.toNat < s.encCount.toNat + (encodeUnit u).length ∧ encUnit u s = .done s.encStop) ∨
    (s.encCount.toNat + (encodeUnit u).length ≤ s.arg1.toNat ∧
      wordMax < s.outCount.toNat + (encodeUnit u).length ∧ encUnit u s = .done s.encOverLimit) ∨
    (s.encCount.toNat + (encodeUnit u).length ≤ s.arg1.toNat ∧
      s.outCount.toNat + (encodeUnit u).length ≤ wordMax ∧
      ((∃ f, memWrite s.outCount.toNat (encodeUnit u) s = .error f ∧ encUnit u s = .stop f) ∨
       (∃ t, memWrite s.outCount.toNat (encodeUnit u) s = .ok (false, t) ∧
          encUnit u s = .done t.encSinkFailed) ∨
       (∃ t, memWrite s.outCount.toNat (encodeUnit u) s = .ok (true, t) ∧
          encUnit u s = encAccount u { t with
            outCount := t.outCount + BitVec.ofNat 32 (encodeUnit u).length
            encCount := t.encCount + BitVec.ofNat 32 (encodeUnit u).length }))) := by
  unfold encUnit
  by_cases h1 : s.arg1.toNat < s.encCount.toNat + (encodeUnit u).length
  · exact .inl ⟨h1, by simp [h1]⟩
  · by_cases h2 : wordMax < s.outCount.toNat + (encodeUnit u).length
    · exact .inr (.inl ⟨by omega, h2, by simp [h1, h2]⟩)
    · refine .inr (.inr ⟨by omega, by omega, ?_⟩)
      simp only [h1, h2, if_false]
      cases hm : memWrite s.outCount.toNat (encodeUnit u) s with
      | error f => exact .inl ⟨f, rfl, rfl⟩
      | ok p =>
        obtain ⟨ok, t⟩ := p
        cases ok
        · exact .inr (.inl ⟨t, rfl, rfl⟩)
        · exact .inr (.inr ⟨t, rfl, rfl⟩)

/-- Everything one turn of `EncStep` can do (R170, R176). -/
theorem encTurn_cases (s : State) :
    (s.unitOwed = none ∧ encTurn s = .done s.encComplete) ∨
    (∃ u, s.unitOwed = some u ∧ encTurn s = encUnit u s) := by
  unfold encTurn
  cases h : s.unitOwed with
  | none => exact .inl ⟨rfl, rfl⟩
  | some u => exact .inr ⟨u, rfl, rfl⟩

/-! ## Loops -/

/-- Where a command stands with respect to a property of its states under way and one of its last state. -/
def Micro.Meets (under : State → Prop) (last : State → Prop) : Micro → Prop
  | .more s => under s
  | .done s => last s
  | .stop _ => True

/-- What every turn of REC_DECODE keeps, its loop keeps. -/
theorem decLoop_meets {under last : State → Prop}
    (turn : ∀ s, under s → (decTurn s).Meets under last) (fuel : Nat) {s : State} (h : under s) :
    (decLoop fuel s).Meets under last := by
  induction fuel generalizing s with
  | zero => exact h
  | succ n ih =>
    have ht := turn s h
    unfold decLoop Micro.andThen
    cases hm : decTurn s with
    | more t => rw [hm] at ht; exact ih ht
    | done t => rw [hm] at ht; exact ht
    | stop f => exact trivial

/-- What every turn of `EncStep` keeps, its loop keeps. -/
theorem encLoop_meets {under last : State → Prop}
    (turn : ∀ s, under s → (encTurn s).Meets under last) (fuel : Nat) {s : State} (h : under s) :
    (encLoop fuel s).Meets under last := by
  induction fuel generalizing s with
  | zero => exact h
  | succ n ih =>
    have ht := turn s h
    unfold encLoop Micro.andThen
    cases hm : encTurn s with
    | more t => rw [hm] at ht; exact ih ht
    | done t => rw [hm] at ht; exact ht
    | stop f => exact trivial

/-- A next state of a command comes from where its loop stands. -/
theorem Micro.out_next {m : Micro} {t : State} (h : m.out = .next t) : m = .more t ∨ m = .done t := by
  cases m <;> simp [Micro.out] at h <;> subst h <;> simp

/-! ## The scaler -/

/-- Everything a conversion can do (R201). -/
theorem scaleBy_cases (m d : Word) (s : State) :
    (s.status.scalerReady = false ∧ scaleBy m d s = .next (s.finish .invalidArguments)) ∨
    (s.status.scalerReady = true ∧ d = 0 ∧ scaleBy m d s = .fault .zeroDivisor) ∨
    (s.status.scalerReady = true ∧ d ≠ 0 ∧ wordMax < roundDiv (s.arg0.toNat * m.toNat) d.toNat ∧
      scaleBy m d s = .next (s.raiseFault.finish .genericFailure)) ∨
    (s.status.scalerReady = true ∧ d ≠ 0 ∧ roundDiv (s.arg0.toNat * m.toNat) d.toNat ≤ wordMax ∧
      scaleBy m d s = .next ({ s with
        res0 := BitVec.ofNat 32 (roundDiv (s.arg0.toNat * m.toNat) d.toNat) }.finish .ok)) := by
  unfold scaleBy ended
  cases hr : s.status.scalerReady
  · exact .inl ⟨rfl, rfl⟩
  · by_cases hd : d = 0
    · exact .inr (.inl ⟨rfl, hd, by simp [hd]⟩)
    · by_cases hq : wordMax < roundDiv (s.arg0.toNat * m.toNat) d.toNat
      · exact .inr (.inr (.inl ⟨rfl, hd, hq, by rw [if_neg (by simp), if_neg hd]; simp [hq]⟩))
      · exact .inr (.inr (.inr ⟨rfl, hd, by omega, by rw [if_neg (by simp), if_neg hd]; simp [hq]⟩))

/-! ## A step -/

/-- Everything a step can be: nothing to do, a command, or another access (R28, R55, R233). -/
theorem step_cases (s : State) :
    (s.host = [] ∧ step s = .next s) ∨
    (∃ op rest, s.host = op :: rest ∧
      ((∃ w, op = .write 0 w ∧
          step s = exec (decodeCommand w) ({ s with host := rest }.deliver (decodeCommand w))) ∨
       (∃ o, busRequest op { s with host := rest } = .access o ∧ step s = o))) := by
  unfold step fetch
  cases hh : s.host with
  | nil => exact .inl ⟨rfl, rfl⟩
  | cons op rest =>
    refine .inr ⟨op, rest, rfl, ?_⟩
    cases op with
    | write offset w =>
      by_cases h0 : offset = 0
      · subst h0; exact .inl ⟨w, rfl, rfl⟩
      · refine .inr ?_
        by_cases hw : windowOffset offset = true <;> simp [busRequest, h0, hw]
    | read offset =>
      refine .inr ?_
      by_cases hw : windowOffset offset = true <;> simp [busRequest, hw]
    | narrow offset => exact .inr ⟨_, rfl, rfl⟩
    | attachInput bytes =>
      refine .inr ?_
      simp only [busRequest]
      split_ifs <;> exact ⟨_, rfl, rfl⟩
    | attachSink =>
      refine .inr ?_
      simp only [busRequest]
      split_ifs <;> exact ⟨_, rfl, rfl⟩

end Sys2Proof.Machine
end

