-- ==== Sys2Proof/Laws/PerInstr.lean ====
section
/-! SUPPORT. Statements made for every instruction, one lemma per constructor. -/

namespace Sys2Proof

/-- How many bits an instruction's code has. -/
def Code.bits : Code → Nat
  | .word _ => 32
  | .bytes bs => 8 * bs.length

/-- How many bits the opcode table gives an instruction's row (R81, R83, R96). -/
def Instr.tableBits : Instr → Nat
  | .openRead | .openWrite | .recDecode | .encPulse | .encDrain => 32
  | .close | .scaleCfg | .scaleS2C | .scaleC2S | .reset | .illegal _ => 32
  | .short _ | .v0esc => 8
  | .v0chain n _ => 8 * (n + 1)
  | .ext _ | .extOvf | .extZero => 32
  | .hdr _ => 160

end Sys2Proof

namespace Sys2Proof.Laws.CodeSize

/-- The code of the instruction has the length of its row, whatever the parameters. -/
def Statement (i : Instr) : Prop := ∀ p : Params, (encode p i).bits = i.tableBits

theorem openRead : Statement .openRead := fun _ => rfl
theorem openWrite : Statement .openWrite := fun _ => rfl
theorem recDecode : Statement .recDecode := fun _ => rfl
theorem encPulse : Statement .encPulse := fun _ => rfl
theorem encDrain : Statement .encDrain := fun _ => rfl
theorem close : Statement .close := fun _ => rfl
theorem scaleCfg : Statement .scaleCfg := fun _ => rfl
theorem scaleS2C : Statement .scaleS2C := fun _ => rfl
theorem scaleC2S : Statement .scaleC2S := fun _ => rfl
theorem reset : Statement .reset := fun _ => rfl
theorem illegal (w : Word) : Statement (.illegal w) := fun _ => rfl
theorem short (b : Byte) : Statement (.short b) := fun _ => rfl
theorem v0esc : Statement .v0esc := fun _ => rfl
theorem v0chain (n : Nat) (b : Byte) : Statement (.v0chain n b) := fun _ => by
  simp [encode, Code.bits, Instr.tableBits]
theorem ext (v : Value24) : Statement (.ext v) := fun _ => rfl
theorem extOvf : Statement .extOvf := fun _ => rfl
theorem extZero : Statement .extZero := fun _ => rfl
theorem hdr (h : Header) : Statement (.hdr h) := fun p => by
  simp [encode, Code.bits, Instr.tableBits]

end Sys2Proof.Laws.CodeSize
end

