-- ==== Sys2Proof/Tests/Slice0.lean ====
section
/-! SUPPORT. The model's own tests: what WellFormed refuses, words and bytes written out from the spec's
tables, one step of each instruction against the vectors of `95_test_vectors.md`, and for every statement
with hypotheses a concrete state and operands that meet them. -/

namespace Sys2Proof.Tests

open Sys2Proof Sys2Proof.Machine

/-! ## WellFormed refuses what is no encoding -/

theorem test_wf_illegal_word_in_the_map : (Instr.illegal 1).wf = false := by decide
theorem test_wf_illegal_last_in_the_map : (Instr.illegal 10).wf = false := by decide
theorem test_wf_short_zero : (Instr.short 0).wf = false := by decide
theorem test_wf_chain_without_zeros : (Instr.v0chain 0 5).wf = false := by decide
theorem test_wf_chain_closed_by_zero : (Instr.v0chain 1 0).wf = false := by decide
theorem test_wf_ext_of_zero : (Instr.ext 0).wf = false := by decide
theorem test_wf_ext_of_the_escape : (Instr.ext 0xFFFFFF).wf = false := by decide
theorem test_wf_header_version_3 : (Instr.hdr ⟨.primary, 3, 0, 0, 0, 0⟩).wf = false := by decide
theorem test_wf_good_terms :
    (Instr.illegal 0).wf = true ∧ (Instr.illegal 11).wf = true ∧ (Instr.short 255).wf = true ∧
    (Instr.v0chain 1 1).wf = true ∧ (Instr.ext 1).wf = true ∧ (Instr.ext 0xFFFFFE).wf = true ∧
    (Instr.hdr ⟨.alternate, 2, 7, 9, 255, 0xFFFFFFFF⟩).wf = true := by decide

/-! ## Words written out from the opcode map (R97) -/

theorem test_decode_openRead : decodeCommand 0b00000000000000000000000000000001 = .openRead := by decide
theorem test_decode_openWrite : decodeCommand 0b00000000000000000000000000000010 = .openWrite := by decide
theorem test_decode_recDecode : decodeCommand 0b00000000000000000000000000000011 = .recDecode := by decide
theorem test_decode_encPulse : decodeCommand 0b00000000000000000000000000000100 = .encPulse := by decide
theorem test_decode_encDrain : decodeCommand 0b00000000000000000000000000000101 = .encDrain := by decide
theorem test_decode_close : decodeCommand 0b00000000000000000000000000000110 = .close := by decide
theorem test_decode_scaleCfg : decodeCommand 0b00000000000000000000000000000111 = .scaleCfg := by decide
theorem test_decode_scaleS2C : decodeCommand 0b00000000000000000000000000001000 = .scaleS2C := by decide
theorem test_decode_scaleC2S : decodeCommand 0b00000000000000000000000000001001 = .scaleC2S := by decide
theorem test_decode_reset : decodeCommand 0b00000000000000000000000000001010 = .reset := by decide
/-- `95_test_vectors.md` §2.8. -/
theorem test_decode_illegal :
    decodeCommand 0 = .illegal 0 ∧ decodeCommand 0x0000000B = .illegal 0x0000000B ∧
    decodeCommand 0x000000FF = .illegal 0x000000FF ∧ decodeCommand 0x00000101 = .illegal 0x00000101 ∧
    decodeCommand 0x80000006 = .illegal 0x80000006 := by decide

/-! ## Bytes written out from R81 and R83 to R89 -/

theorem test_decode_short : decode Params.default (.unit 0) (.bytes [0b10000000]) = .ok (.short 128, []) := by
  decide
theorem test_decode_v0esc : decode Params.default (.unit 0) (.bytes [0b00000000]) = .ok (.v0esc, []) := by
  decide
theorem test_decode_v0chain :
    decode Params.default (.record 0) (.bytes [0, 0, 0b01110001, 5]) = .ok (.v0chain 2 0x71, [5]) := by decide
/-- 5000 is 0x001388, least significant byte first (R63). -/
theorem test_decode_ext :
    decode Params.default (.record 1) (.bytes [0, 0b10001000, 0b00010011, 0]) = .ok (.ext 5000, []) := by
  decide
theorem test_decode_extOvf :
    decode Params.default (.record 2) (.bytes [0, 0b11111111, 0b11111111, 0b11111111]) = .ok (.extOvf, []) := by
  decide
theorem test_decode_extZero : decode Params.default (.unit 1) (.bytes [0, 0, 0, 0]) = .ok (.extZero, []) := by
  decide
/-- `MB 02 02 01 09 50 00 00 00` of `95_test_vectors.md` §2.2. -/
theorem test_decode_hdr :
    decode Params.default .header (.bytes
      [0x43, 0x31, 0x36, 0x2D, 0x54, 0x41, 0x50, 0x45, 0x2D, 0x52, 0x41, 0x57, 2, 2, 1, 9, 0x50, 0, 0, 0]) =
      .ok (.hdr ⟨.alternate, 2, 2, 1, 9, 0x50⟩, []) := by decide
theorem test_decode_refusals :
    decode Params.default (.record 1) (.bytes [0, 0x12]) = .error .truncated ∧
    decode Params.default (.record 0) (.bytes [0, 0]) = .error .truncated ∧
    decode Params.default (.record 0) (.bytes []) = .error .empty ∧
    decode Params.default .header (.bytes (List.replicate 12 0x58 ++ List.replicate 8 0)) =
      .error .badMagic ∧
    decode Params.default .header (.bytes (Params.default.magicA.toList ++ [3, 0, 0, 0, 0, 0, 0, 0])) =
      .error .badVersion ∧
    decode Params.default .header (.bytes (Params.default.magicA.toList ++ [1, 0, 0, 0])) =
      .error .shortHeader ∧
    decode Params.default .command (.bytes [1]) = .error .wrongSpace := by decide
/-- The rows of the opcode table by their bits. -/
theorem test_tableWords :
    decodeTableWord 32 6 = some .close ∧ decodeTableWord 32 0x100 = some (.illegal 0x100) ∧
    decodeTableWord 8 5 = some (.short 5) ∧ decodeTableWord 8 0 = some .v0esc ∧
    decodeTableWord 16 0x0100 = some (.v0chain 1 1) ∧ decodeTableWord 32 0x00FFFFFF = some .extOvf ∧
    decodeTableWord 32 0 = some .extZero := by decide

/-! ## Small states -/

/-- Reset, with a seekable sink that accepts the next eight writes. -/
def base : State := { State.reset with
  par := { Params.default with sinkSeekable := true }
  sinkDraws := List.replicate 8 true }

/-- The state a step leaves. -/
def after (o : Out) : State :=
  match o with
  | .next s => s
  | .fault _ => base
  | .refused _ => base

/-- A read stream at its first record. -/
def reading (ver : BitVec 2) (cfg : Word) (body : List Byte) : State := { base with
  inImg := Memory.ofBytes (List.replicate 20 1 ++ body)
  inPos := 20
  streamCfg := cfg
  status := { base.status with state := .reading, version := ver } }

/-- A read stream of version 0 whose record is n zero bytes and a byte b, as data, for a large n. -/
def longChain (n : Nat) (cfg : Word) (b : Byte) : State := { base with
  inImg := { len := 20 + n + 1, cells := [(20 + n, b)] }
  inPos := 20
  streamCfg := cfg
  status := { base.status with state := .reading } }

/-- A write stream with nothing but its header, and the operands of the next command. -/
def writing (ver : BitVec 2) (mark : Bool) (arg0 arg1 : Word) : State := { base with
  outImg := Memory.ofBytes (encodeHeader base.par ⟨.primary, ver.setWidth 8, 0, 0, 0, 0⟩)
  outCount := 20
  arg0 := arg0
  arg1 := arg1
  status := { base.status with state := .writing, dir := .write, version := ver, ovfMark := mark } }

/-- The same with a pending residual. -/
def pending (ver : BitVec 2) (mark : Bool) (res arg1 : Word) : State :=
  { writing ver mark 0 arg1 with encRes := res }.setPending true

/-- The scaler configured, and an operand. -/
def scaled (rate clock x : Word) : State := { base with
  arg0 := x
  scaleRate := rate
  scaleClock := clock
  status := { base.status with scalerReady := true } }

/-- The bytes of the output image from an offset on. -/
def outFrom (s : State) (a : Nat) : List Byte := s.outImg.bytesFrom a (s.outImg.len - a)

/-! ## One step of each instruction (`95_test_vectors.md` §2) -/

/-- §2.2, row 2, with bytes after the header. -/
theorem test_openRead_accepts :
    let s := after (exec .openRead { base with
      arg0 := 0x0A, inPos := 7
      inImg := Memory.ofBytes (base.par.magicB.toList ++ [2, 2, 1, 9, 0x50, 0, 0, 0]) })
    s.res0 = 0x09010202 ∧ s.res1 = 0x50 ∧ s.inPos = 20 ∧ s.status.toWord = 0x00021810 := by decide
/-- §2.2, row 4. -/
theorem test_openRead_rejects_version_3 :
    let s := after (exec .openRead { base with
      res0 := 5, inPos := 7
      inImg := Memory.ofBytes (base.par.magicA.toList ++ [3, 0, 0, 0, 0, 0, 0, 0]) })
    s.res0 = 5 ∧ s.inPos = 0 ∧ s.status.toWord = 0x00000009 := by decide
/-- §2.1, row 0x1A. -/
theorem test_openWrite_writes_the_header :
    let s := after (exec .openWrite { base with arg0 := 0x1A })
    outFrom s 0 = base.par.magicB.toList ++ [2, 2, 1, 0, 0, 0, 0, 0] ∧
    s.status.toWord = 0x000200A0 ∧ s.outCount = 20 := by decide
/-- §2.1, the sink rejects the header. -/
theorem test_openWrite_sink_failure :
    let s := after (exec .openWrite { base with sinkDraws := [false] })
    s.outImg = Memory.empty ∧ s.status.toWord = 0x00000005 ∧ s.outCount = 0 := by decide
/-- §2.3, `00 00 71` in both modes. -/
theorem test_recDecode_chain :
    (after (exec .recDecode (reading 0 0 [0, 0, 0x71]))).res0 = 5000 ∧
    (after (exec .recDecode (reading 0 0x20 [0, 0, 0x71]))).res0 = 904 ∧
    (after (exec .recDecode (reading 0 0x20 [0, 0, 0x71]))).res1 = 0x02000003 := by decide
/-- §2.3, `00 12` in version 1. -/
theorem test_recDecode_truncated :
    let s := after (exec .recDecode (reading 1 0 [0, 0x12]))
    s.res0 = 0 ∧ s.res1 = 2 ∧ s.inPos = 22 ∧ s.status.result = .endOfStream := by decide
/-- §2.4, `0x1000000` in version 1. -/
theorem test_encPulse_escape_then_short :
    let s := after (exec .encPulse (writing 1 false 0x1000000 0xFFFFFFFF))
    outFrom s 20 = [0, 0xFF, 0xFF, 0xFF, 1] ∧ s.res0 = 5 ∧ s.res1 = 0 ∧
    s.status.toWord = 0x000102A0 := by decide
/-- §2.4, `(1, 5000, cap 3)`: the extended record does not fit. -/
theorem test_encPulse_capacity_stop :
    let s := after (exec .encPulse (writing 1 false 5000 3))
    outFrom s 20 = [] ∧ s.res0 = 0 ∧ s.res1 = 5000 ∧ s.status.encPending = true ∧
    s.status.result = .ok := by decide
/-- R188, the last drain. -/
theorem test_encDrain_closing_zero :
    let s := after (exec .encDrain (pending 1 true 0 4))
    outFrom s 20 = [0, 0, 0, 0] ∧ s.res0 = 4 ∧ s.status.encPending = false ∧
    s.status.ovfMark = false := by decide
/-- §2.4, `ENC_DRAIN 1` after `(0, 5000, cap 2)`. -/
theorem test_encDrain_short :
    let s := after (exec .encDrain (pending 0 false 904 1))
    outFrom s 20 = [0x71] ∧ s.res0 = 1 ∧ s.res1 = 0 ∧ s.outCount = 21 := by decide
/-- §2.6, with one record and a pending pulse. -/
theorem test_close_patches :
    let s := after (exec .close { pending 1 false 9 0 with
      outCount := 21, outImg := (pending 1 false 9 0).outImg.append [5] })
    outFrom s 16 = [1, 0, 0, 0, 5] ∧ s.res0 = 1 ∧ s.encRes = 0 ∧ s.status.discarded = true ∧
    s.status.state = .closed := by decide
/-- §2.6, a sink that cannot seek. -/
theorem test_close_not_seekable :
    let s := after (exec .close { writing 1 false 0 0 with
      par := { base.par with sinkSeekable := false } })
    outFrom s 16 = [0, 0, 0, 0] ∧ s.status.result = .backendError ∧ s.status.state = .closed := by decide
/-- R205. -/
theorem test_scaleCfg_c16_ntsc :
    let s := after (exec .scaleCfg { base with arg0 := 0x18, arg1 := 44100 })
    s.scaleSel = 6 ∧ s.scaleClock = 894886 ∧ s.scaleRate = 44100 ∧ s.status.scalerReady = true := by decide
/-- R205. -/
theorem test_scaleCfg_refuses_machine_3 :
    (after (exec .scaleCfg { base with arg0 := 0x0C, arg1 := 44100 })).status.toWord = 0x00000008 := by decide
/-- R204. -/
theorem test_scaleS2C_rounds_up :
    (after (exec .scaleS2C (scaled 44100 985248 2))).res0 = 45 ∧
    (after (exec .scaleS2C (scaled 44100 985248 192244041))).res0 = 4294967277 := by decide
/-- R204, the overflow. -/
theorem test_scaleS2C_overflow :
    let s := after (exec .scaleS2C { scaled 44100 985248 192244042 with res0 := 7 })
    s.res0 = 7 ∧ s.status.fault = true ∧ s.status.result = .genericFailure := by decide
/-- R204. -/
theorem test_scaleC2S :
    (after (exec .scaleC2S (scaled 44100 985248 11))).res0 = 0 ∧
    (after (exec .scaleC2S (scaled 44100 985248 2234))).res0 = 100 ∧
    (after (exec .scaleC2S (scaled 44100 985248 0xFFFFFFFF))).res0 = 192244042 := by decide
/-- R205, an exact half. -/
theorem test_scale_tie : (after (exec .scaleS2C (scaled 1970496 985248 1))).res0 = 1 := by decide
/-- R140. -/
theorem test_reset_after_pending :
    let s := after (exec .reset (pending 1 true 5 0))
    s.encRes = 0 ∧ s.status = Status.reset ∧ s.outImg.len = 20 := by decide
/-- R142, in a held state. -/
theorem test_illegal_word :
    let t := { reading 1 0 [5] with res0 := 3 }.enter .interrupted
    exec (.illegal 0x100) t = .next (t.finish .invalidArguments) := rfl
/-- R149. -/
theorem test_short_row :
    let s := after (exec (.short 0x05) (reading 1 0 [5]))
    s.res0 = 40 ∧ s.res1 = 0x01000001 ∧ s.inPos = 21 := by decide
/-- R175. -/
theorem test_short_row_emitted : outFrom (after (exec (.short 0xFF) (pending 0 false 2041 1))) 20 = [0xFF] := by
  decide
/-- R85: 2048 cycles of the record being read. -/
theorem test_v0esc_row :
    let s := after (exec .v0esc (reading 0 0 [0, 0x71]))
    s.dec = { start := 20, acc := 2048, zeros := 1 } ∧ s.inPos = 21 := by decide
/-- R173. -/
theorem test_v0esc_row_emitted :
    let s := after (exec .v0esc (pending 0 false 5000 9))
    outFrom s 20 = [0] ∧ s.encRes = 2952 := by decide
/-- R158. -/
theorem test_v0chain_row :
    (after (exec (.v0chain 3 1) (reading 0 0 [0, 0, 0, 1]))).res0 = 6152 ∧
    (after (exec (.v0chain 3 1) (reading 0 0x20 [0, 0, 0, 1]))).res0 = 8 := by decide
/-- R187. -/
theorem test_v0chain_row_emitted :
    outFrom (after (exec (.v0chain 2 0x71) (pending 0 false 5000 9))) 20 = [0, 0, 0x71] := by decide
/-- R187, R151. -/
theorem test_ext_row :
    (after (exec (.ext 5000) (reading 2 0 [0, 0x88, 0x13, 0]))).res0 = 5000 ∧
    outFrom (after (exec (.ext 2048) (pending 1 false 2048 4))) 20 = [0, 0, 8, 0] := by decide
/-- R151, R173. -/
theorem test_extOvf_row :
    (after (exec .extOvf (reading 1 0 [0, 0xFF, 0xFF, 0xFF, 1]))).res0 = 16777215 ∧
    (after (exec .extOvf (pending 1 false 0x1000000 4))).encRes = 1 ∧
    (after (exec .extOvf (pending 1 false 0x1000000 4))).status.ovfMark = true := by decide
/-- R158, R174. -/
theorem test_extZero_row :
    (after (exec .extZero (reading 1 0 [0, 0, 0, 0]))).res1 = 0x03000004 ∧
    (after (exec .extZero (pending 2 true 0 4))).status.ovfMark = false := by decide
/-- §2.2, row 1. -/
theorem test_hdr_row :
    let s := after (exec (.hdr ⟨.primary, 2, 0, 0, 0, 0⟩) { base with
      inImg := Memory.ofBytes (base.par.magicA.toList ++ [2, 0, 0, 0, 0, 0, 0, 0]) })
    s.res0 = 2 ∧ s.inPos = 20 ∧ s.status.toWord = 0x00020810 := by decide
/-- A header that is not the one at the front. -/
theorem test_hdr_row_absent : exec (.hdr ⟨.primary, 1, 0, 0, 0, 0⟩) base = .refused .notPresented := rfl
/-- An instruction placed for the next step runs. -/
theorem test_fetched_word_runs :
    step (State.reset.withFetchWord 32 7) = .next (State.reset.finish .invalidArguments) ∧
    (after (step (State.reset.withFetchWord 8 5))).res0 = 40 := ⟨rfl, by decide⟩

/-- Log 19: an image attached after CLOSE, shorter than `IN_POS`, waits for OPEN_READ, and R26 holds throughout. -/
theorem test_attached_image_waits :
    let s := after (step (((reading 1 0 [5]).enter .closed).withNext (.attachInput [1])))
    s.inImg.len = 21 ∧ s.inPos = 20 ∧ s.offered = some (Memory.ofBytes [1]) ∧ Inv s :=
  ⟨by decide, by decide, by decide, by constructor <;> decide⟩
/-- OPEN_READ reads the attached image: a short one is rejected with `IN_POS = 0` (R117), and an OPEN_READ
refused for its configuration word leaves it waiting (R120, R143). -/
theorem test_openRead_takes_the_attached_image :
    let c : State := { (reading 1 0 [5]).enter .closed with offered := some (Memory.ofBytes [1]) }
    let s := after (step (c.withNext (.write 0 1)))
    let r := after (step ({ c with arg0 := 0x40 }.withNext (.write 0 1)))
    s.inImg.len = 1 ∧ s.inPos = 0 ∧ s.offered = none ∧ s.status.result = .wrongContainerFormat ∧
    r.inImg.len = 21 ∧ r.inPos = 20 ∧ r.offered = some (Memory.ofBytes [1]) := by decide

/-! ## Every statement's hypotheses are met

One theorem for each statement with hypotheses, named after it, with a part for each clause at a boundary
value of its range. -/

/-- The invariant holds in a read stream and in a write stream, not only after reset. -/
theorem witness_inv_reading : Inv (reading 1 0 [5]) := by constructor <;> decide
theorem witness_inv_writing : Inv (pending 2 true 7 0) := by constructor <;> decide
theorem witness_inv_held : Inv ((reading 1 0 [5]).enter .interrupted) := by constructor <;> decide
theorem witness_inv_scaled : Inv (scaled 1 1 0) := by constructor <;> decide

theorem witness_DecodeOfEncode :
    Params.default.magicA ≠ Params.default.magicB ∧
    (∀ p ∈ [(Instr.reset, Space.command), (.illegal 11, .command), (.short 1, .unit 0),
        (.short 255, .record 2), (.v0esc, .unit 0), (.v0chain 1 255, .record 0), (.ext 1, .unit 1),
        (.ext 0xFFFFFE, .record 2), (.extOvf, .unit 1), (.extZero, .record 2),
        (.hdr ⟨.alternate, 2, 0, 0, 255, 0xFFFFFFFF⟩, .header)],
      p.1.wf = true ∧ p.1.inSpace p.2 = true) := by decide

theorem witness_EncodeOfDecode :
    decode Params.default .command (.word 0x101) = .ok (.illegal 0x101, []) ∧
    decode Params.default (.unit 0) (.bytes [0, 7]) = .ok (.v0esc, [7]) ∧
    decode Params.default (.record 0) (.bytes [0, 7]) = .ok (.v0chain 1 7, []) ∧
    decode Params.default (.record 1) (.bytes [0, 0, 0, 0]) = .ok (.extZero, []) ∧
    decode Params.default .header (.bytes (Params.default.magicA.toList ++ [2, 0, 0, 0, 0, 0, 0, 0, 5])) =
      .ok (.hdr ⟨.primary, 2, 0, 0, 0, 0⟩, [5]) := by decide

theorem witness_StepRunsTheDecodedCommand :
    (base.withNext (.write 0 3)).host = [.write 0 3] ∧ (base.withNext (.read 0)).host = [.read 0] ∧
    decodeCommand 1 = .openRead ∧ MayOpen base ∧ CfgLegal base.arg0 ∧
    ({ base with offered := some (Memory.ofBytes [1]) } : State).offered = some (Memory.ofBytes [1]) := by decide

/-- A SHORT, a chain and an extended record at the cursor. -/
theorem witness_RecDecodeRunsTheRow : ∀ p ∈
    [(reading 0 0 [5], Instr.short 5), (reading 0 0 [0, 0, 1], .v0chain 2 1),
      (reading 2 0 [0, 0xFF, 0xFF, 0xFF], .extOvf)],
    Ready p.1 .reading ∧ p.1.inImg.len ≤ wordMax ∧ p.1.dec = DecWork.idle ∧
    p.1.inPos.toNat ≤ p.1.inImg.len ∧
    decodeRecord p.1.status.version
      (p.1.inImg.bytesFrom p.1.inPos.toNat (p.1.inImg.len - p.1.inPos.toNat)) = .ok (p.2, []) := by decide

theorem witness_WindowFollows :
    (∀ o ∈ [0x00, 0x04, 0x18, 0x34, 0x3C], (base.withNext (.read o)).host = [.read o]) ∧
    (∀ o ∈ [0x04, 0x08, 0x18, 0x0C, 0x3C], (base.withNext (.write o 1)).host = [.write o 1]) ∧
    base.host = [] := by decide

/-- Misaligned inside the window, and aligned just above it. -/
theorem witness_UndefinedAccesses : ∀ o ∈ [1, 0x3D, 0x40],
    (o % 4 ≠ 0 ∨ 0x3C < o) ∧ (base.withNext (.write o 0)).host = [.write o 0] ∧
    (base.withNext (.read o)).host = [.read o] ∧ (base.withNext (.narrow o)).host = [.narrow o] := by decide

theorem witness_Attachments :
    (base.withNext (.attachInput [1])).host = [.attachInput [1]] ∧
    (base.withNext .attachSink).host = [.attachSink] := by decide

theorem witness_EveryRegisterReadsZero : windowOffset 0 = true ∧ windowOffset 0x3C = true := by decide

theorem witness_OpenRead : base.par.magicA ≠ base.par.magicB := by decide

/-- The paths on which HDR is not accepted: the state, the configuration word, another header. -/
theorem witness_HeaderRow_notAccepted :
    ¬ MayOpen (reading 1 0 []) ∧ ¬ CfgLegal 0x40 ∧ MayOpen base ∧ CfgLegal base.arg0 ∧
    base.inImg.bytesFrom 0 20 ≠ encodeHeader base.par ⟨.primary, 2, 0, 0, 0, 0⟩ := by decide

/-- An image of exactly one header, for IDLE and for CLOSED. -/
theorem witness_HeaderRow :
    let h : Header := ⟨.alternate, 2, 7, 9, 255, 0x50⟩
    let s : State := { base with inImg := Memory.ofBytes (encodeHeader base.par h), arg0 := 0x3A }
    s.par.magicA ≠ s.par.magicB ∧ MayOpen s ∧ MayOpen (s.enter .closed) ∧ CfgLegal s.arg0 ∧
    h.ver.toNat ≤ 2 ∧ s.inImg.bytesFrom 0 20 = encodeHeader s.par h := by decide

/-- A write stream with no records, and a read stream. -/
theorem witness_Close :
    (writing 1 false 0 0).status.dir = .write ∧ 20 ≤ (writing 1 false 0 0).outCount.toNat ∧
    20 ≤ (writing 1 false 0 0).outImg.len ∧ (reading 1 0 []).status.dir ≠ .write := by decide

theorem witness_CloseWritesOnly :
    (writing 1 false 0 0).outImg.wf = true ∧ 20 ≤ (writing 1 false 0 0).outImg.len ∧
    ∃ t, exec .close (writing 1 false 0 0) = .next t := ⟨by decide, by decide, _, rfl⟩

theorem witness_IllegalWord :
    (0x100 : Word).extractLsb' 8 24 ≠ 0 ∧ ((0 : Word).extractLsb' 0 8).toNat = 0 ∧
    10 < ((0x0B : Word).extractLsb' 0 8).toNat ∧
    (base.withNext (.write 0 0x100)).host = [.write 0 0x100] := by decide

/-- Every state of the acceptance table. -/
theorem witness_StateTable : ∀ st ∈ [StreamState.idle, .reading, .writing, .closed, .interrupted, .error],
    (base.enter st).status.state = st := by decide

theorem witness_Term :
    ({ reading 0 0 [] with term := true } : State).term = true ∧
    ({ reading 0 0 [] with term := true } : State).status.state = .reading ∧
    ({ writing 0 false 0 0 with term := true } : State).term = true ∧
    ({ writing 0 false 0 0 with term := true } : State).status.state = .writing := by decide

/-- A refusal by the state, by the configuration word, and by a pending pulse. -/
theorem witness_RefusalLeavesNoTrace :
    (∃ t, exec .recDecode base = .next t ∧ t.status.result = .invalidArguments) ∧
    (∃ t, exec .scaleCfg { base with arg0 := 0x40 } = .next t ∧ t.status.result = .invalidArguments) ∧
    (∃ t, exec .encPulse (pending 1 false 5 9) = .next t ∧ t.status.result = .invalidArguments) ∧
    base.inImg.len ≤ wordMax ∧ Instr.inSpace .recDecode .command = true :=
  ⟨⟨_, rfl, rfl⟩, ⟨_, rfl, rfl⟩, ⟨_, rfl, rfl⟩, by decide, by decide⟩

theorem witness_ShortRecord : ∀ b ∈ [(1 : Byte), 255],
    Ready (reading 0 0 [b]) .reading ∧ (reading 0 0 [b]).inImg.len ≤ wordMax ∧
    HasAt (reading 0 0 [b]) 0 b ∧ b ≠ 0 := by decide

theorem witness_ExtendedRecord :
    let s := reading 2 0 [0, 0, 0xFF, 0]
    Ready s .reading ∧ s.inImg.len ≤ wordMax ∧ s.status.version ≠ 0 ∧
    HasAt s 0 0 ∧ HasAt s 1 0 ∧ HasAt s 2 0xFF ∧ HasAt s 3 0 := by decide

/-- A byte of a long chain. -/
theorem longChain_has (n : Nat) (cfg : Word) (b : Byte) :
    (∀ k, k < n → HasAt (longChain n cfg b) k 0) ∧ HasAt (longChain n cfg b) n b := by
  constructor
  · intro k hk
    have h1 : 20 + k < 20 + n + 1 := by omega
    have h2 : ¬ 20 + n = 20 + k := by omega
    show (if 20 + k < 20 + n + 1 then some (if 20 + n = 20 + k then b else 0) else none) = some 0
    rw [if_pos h1, if_neg h2]
  · show (if 20 + n < 20 + n + 1 then some (if 20 + n = 20 + n then b else 0) else none) = some b
    rw [if_pos (by omega), if_pos rfl]

/-- The shortest chain and the longest one within the accumulator (R157). -/
theorem witness_ChainDecodesByAdding : ∀ n ∈ [1, 2097151],
    let s := longChain n 0 0xFF
    Ready s .reading ∧ s.inImg.len ≤ wordMax ∧ s.status.version = 0 ∧ s.streamCfg.getLsbD 5 = false ∧
    1 ≤ n ∧ n ≤ 2097151 ∧ (∀ k, k < n → HasAt s k 0) ∧ HasAt s n 0xFF ∧ (0xFF : Byte) ≠ 0 := by
  intro n hn
  have hr : 1 ≤ n ∧ n ≤ 2097151 := by
    rcases List.mem_cons.1 hn with rfl | hn
    · decide
    · rw [List.mem_singleton.1 hn]; decide
  refine ⟨⟨rfl, rfl⟩, ?_, rfl, by simp [longChain], hr.1, hr.2, (longChain_has n 0 0xFF).1,
    (longChain_has n 0 0xFF).2, by decide⟩
  show 20 + n + 1 ≤ 0xFFFFFFFF
  omega

/-- A chain long enough that `RES1` saturates (R153). -/
theorem witness_ChainDecodesByOverwriting :
    let s := longChain 0x1000000 0x20 1
    Ready s .reading ∧ s.inImg.len ≤ wordMax ∧ s.status.version = 0 ∧ s.streamCfg.getLsbD 5 = true ∧
    1 ≤ 0x1000000 ∧ (∀ k, k < 0x1000000 → HasAt s k 0) ∧ HasAt s 0x1000000 1 ∧ (1 : Byte) ≠ 0 :=
  ⟨⟨rfl, rfl⟩, by decide, rfl, by decide, by decide, (longChain_has _ _ _).1, (longChain_has _ _ _).2,
    by decide⟩

theorem witness_EndOfImage :
    Ready (reading 1 0 []) .reading ∧ (reading 1 0 []).inPos.toNat = (reading 1 0 []).inImg.len := by decide

/-- EndOfStream at a record boundary and inside a record. -/
theorem witness_EndOfStreamPersists : ∀ s ∈ [reading 1 0 [], reading 1 0 [0, 0x12]],
    Ready s .reading ∧ s.inImg.len ≤ wordMax ∧
    exec .recDecode s = .next (after (exec .recDecode s)) ∧
    (after (exec .recDecode s)).status.result = .endOfStream := by
  intro s hs
  rcases List.mem_cons.1 hs with rfl | hs
  · exact ⟨by decide, by decide, rfl, rfl⟩
  · rw [List.mem_singleton.1 hs]
    exact ⟨by decide, by decide, rfl, rfl⟩

/-- Versions 1 and 2 with none and with two bytes after the zero, and version 0. -/
theorem witness_TruncatedRecord :
    (∀ s ∈ [reading 1 0 [0], reading 2 0 [0, 1, 2]],
      Ready s .reading ∧ s.inImg.len ≤ wordMax ∧ s.inPos.toNat < s.inImg.len ∧
      s.status.version ≠ 0 ∧ HasAt s 0 0 ∧ s.inImg.len < s.inPos.toNat + 4) ∧
    (let s := reading 0 0 [0, 0]
     Ready s .reading ∧ s.inImg.len ≤ wordMax ∧ s.inPos.toNat < s.inImg.len ∧ s.status.version = 0 ∧
     (∀ k, k < 2 → HasAt s k 0) ∧ s.inImg.len = s.inPos.toNat + 2 ∧ s.streamCfg.getLsbD 5 = false) := by
  decide

theorem witness_AccumulatorOverflow :
    let s := longChain 2097152 0 1
    Ready s .reading ∧ s.inImg.len ≤ wordMax ∧ s.status.version = 0 ∧ s.streamCfg.getLsbD 5 = false ∧
    (∀ k, k < 2097152 → HasAt s k 0) :=
  ⟨⟨rfl, rfl⟩, by decide, rfl, by decide, (longChain_has _ _ _).1⟩

theorem witness_DecoderFrame : ∃ t, exec .recDecode (reading 1 0 [5]) = .next t := ⟨_, rfl⟩

/-- A pulse that fits its capacity exactly: an escape and a short byte, and the closing zero record. -/
theorem witness_EncPulseEmits : ∀ p ∈
    [(writing 1 false 0x1000000 5, 5, 2), (writing 2 false 0xFFFFFF 8, 8, 2), (writing 0 true 5000 3, 3, 3)],
    Ready p.1 .writing ∧ p.1.status.encPending = false ∧
    (canonicalBytes p.1.status.version p.1.arg0.toNat p.1.status.ovfMark).length = p.2.1 ∧
    p.2.1 ≤ p.1.arg1.toNat ∧ SinkRoom p.1 p.2.1 ∧
    canonicalRecords p.1.status.version p.1.arg0.toNat p.1.status.ovfMark = p.2.2 ∧
    SinkAccepts p.1 p.2.2 := by decide

theorem witness_EncDrainEmits : ∀ p ∈ [(pending 1 true 0 4, 4, 1), (pending 0 false 904 1, 1, 1)],
    Ready p.1 .writing ∧ p.1.status.encPending = true ∧
    (canonicalBytes p.1.status.version p.1.encRes.toNat p.1.status.ovfMark).length = p.2.1 ∧
    p.2.1 ≤ p.1.arg1.toNat ∧ SinkRoom p.1 p.2.1 ∧
    canonicalRecords p.1.status.version p.1.encRes.toNat p.1.status.ovfMark = p.2.2 ∧
    SinkAccepts p.1 p.2.2 := by decide

/-- No capacity at all, and capacity for one record of two. -/
theorem witness_CapacityStops : ∀ p ∈
    [(writing 1 false 5000 0, 4, 1), (writing 1 false 0x1000000 4, 5, 2)],
    Ready p.1 .writing ∧ p.1.status.encPending = false ∧
    (canonicalBytes p.1.status.version p.1.arg0.toNat p.1.status.ovfMark).length = p.2.1 ∧
    SinkRoom p.1 p.2.1 ∧ SinkAccepts p.1 p.2.2 ∧
    canonicalRecords p.1.status.version p.1.arg0.toNat p.1.status.ovfMark = p.2.2 := by decide

theorem witness_CapacityStops_drain :
    let s := pending 1 true 0 3
    Ready s .writing ∧ s.status.encPending = true ∧
    canonicalBytes s.status.version s.encRes.toNat s.status.ovfMark = [0, 0, 0, 0] ∧
    SinkRoom s 4 ∧ SinkAccepts s 1 := by decide

theorem witness_PendingDecides :
    Ready (pending 1 false 5 9) .writing ∧ (pending 1 false 5 9).status.encPending = true ∧
    Ready (writing 1 false 5 9) .writing ∧ (writing 1 false 5 9).status.encPending = false := by decide

/-- The same after one escape and after the last escape: the counter one byte short of the closing record, and
a sink that refuses it. -/
theorem witness_FirstRecordFailures_later :
    (let s : State := { writing 1 false 0x1000000 9 with
       outCount := 0xFFFFFFFB, outImg := { (writing 1 false 0 0).outImg with len := 0xFFFFFFFB } }
     Ready s .writing ∧ s.status.encPending = false ∧ 1 ≤ escapes s.status.version s.arg0.toNat ∧
     encNext s.status.version (s.arg0.toNat - 1 * escapeCycles s.status.version)
       (escapedMark s.status.version 1 s.status.ovfMark) = some (.short 1) ∧
     4 + (encodeUnit (.short 1)).length ≤ s.arg1.toNat ∧ SinkRoom s 4 ∧ SinkAccepts s 1 ∧
     wordMax < s.outCount.toNat + 4 + (encodeUnit (.short 1)).length) ∧
    (let s : State := { pending 0 false 4100 3 with sinkDraws := [true, true, false] }
     Ready s .writing ∧ s.status.encPending = true ∧ 2 ≤ escapes s.status.version s.encRes.toNat ∧
     encNext s.status.version (s.encRes.toNat - 2 * escapeCycles s.status.version)
       (escapedMark s.status.version 2 s.status.ovfMark) = some (.short 1) ∧
     2 + (encodeUnit (.short 1)).length ≤ s.arg1.toNat ∧ SinkRoom s 3 ∧ SinkAccepts s 2 ∧
     s.upcomingDraw 2 = false) := by decide

/-- The counter one byte short of room, and a sink that refuses, for ENC_PULSE and for ENC_DRAIN. -/
theorem witness_FirstRecordFailures :
    (let s : State := { writing 1 false 5000 4 with outCount := 0xFFFFFFFC }
     Ready s .writing ∧ s.status.encPending = false ∧
     encNext s.status.version s.arg0.toNat s.status.ovfMark = some (.ext 5000) ∧
     (encodeUnit (.ext 5000)).length ≤ s.arg1.toNat ∧
     wordMax < s.outCount.toNat + (encodeUnit (.ext 5000)).length) ∧
    (let s : State := { pending 1 false 5 1 with sinkDraws := [false] }
     Ready s .writing ∧ s.status.encPending = true ∧
     encNext s.status.version s.encRes.toNat s.status.ovfMark = some (.short 1) ∧
     (encodeUnit (.short 1)).length ≤ s.arg1.toNat ∧ SinkRoom s 1 ∧ s.upcomingDraw 0 = false) := by decide

theorem witness_EncoderFrame :
    let s := writing 1 false 5000 3
    s.outCount.toNat = s.outImg.len ∧ s.outImg.wf = true ∧ (∃ t, exec .encPulse s = .next t) ∧
    (∃ t, exec .encDrain s = .next t) :=
  ⟨by decide, by decide, ⟨_, rfl⟩, ⟨_, rfl⟩⟩

/-- The least capacity of each version: four bytes, and one. -/
theorem witness_EncodeLoop : ∀ p ∈
    [(writing 1 false 0 0, (0x1000000 : Word), (4 : Word), 5, 2), (writing 0 false 0 0, 5000, 1, 3, 3)],
    Ready p.1 .writing ∧ p.1.status.encPending = false ∧
    (escapeBytes p.1.status.version).length ≤ p.2.2.1.toNat ∧
    (canonicalBytes p.1.status.version p.2.1.toNat p.1.status.ovfMark).length = p.2.2.2.1 ∧
    SinkRoom p.1 p.2.2.2.1 ∧ SinkAccepts p.1 p.2.2.2.2 ∧
    canonicalRecords p.1.status.version p.2.1.toNat p.1.status.ovfMark = p.2.2.2.2 := by decide

theorem witness_CanonicalRecordsReadBack :
    0xFFFFFF ≤ wordMax ∧ (canonicalBytes 1 0xFFFFFF false).length ≤ 8 ∧
    5000 ≤ wordMax ∧ (canonicalBytes 0 5000 false).length ≤ 3 := by decide

/-- Alone, and closing a chain. -/
theorem witness_ShortRow : ∀ s ∈
    [reading 1 0 [5], { reading 0 0 [0, 5] with inPos := 21, dec := { start := 20, acc := 2048, zeros := 1 } }],
    Ready s .reading ∧ s.inImg.len ≤ wordMax ∧ HasAt s 0 5 ∧ (5 : Byte) ≠ 0 := by decide

/-- Below the accumulator's limit, at it, and in OVERWRITE mode. -/
theorem witness_EscapeRow : ∀ s ∈
    [reading 0 0 [0], reading 0 0x20 [0],
      { reading 0 0 [0, 0] with
        inPos := 21, dec := { start := 20, acc := 0xFFFFF800, zeros := 2097151 } }],
    Ready s .reading ∧ s.inImg.len ≤ wordMax ∧ s.status.version = 0 ∧ HasAt s 0 0 := by decide

theorem witness_ChainRow :
    let s := reading 0 0 [0, 1]
    Ready s .reading ∧ s.inImg.len ≤ wordMax ∧ s.status.version = 0 ∧ s.dec.zeros = 0 ∧
    (∀ k, k < 1 → HasAt s k 0) ∧ HasAt s 1 1 ∧ (1 : Byte) ≠ 0 := by decide

theorem witness_ExtendedRows : ∀ p ∈
    [(reading 1 0 [0, 1, 0, 0], (1 : Value24)), (reading 2 0 [0, 0xFF, 0xFF, 0xFF], 0xFFFFFF),
      (reading 1 0 [0, 0, 0, 0], 0)],
    Ready p.1 .reading ∧ p.1.inImg.len ≤ wordMax ∧ p.1.status.version ≠ 0 ∧
    p.1.inImg.bytesFrom p.1.inPos.toNat 4 = 0 :: leBytes 3 p.2.toNat := by decide

/-- Each at the least residual that owes an escape. -/
theorem witness_EscapeRowsAreEmitted :
    (let s := pending 0 false 2048 1
     s.status.version = 0 ∧ 2048 ≤ s.encRes.toNat ∧ CanEmit s 1 ∧ s.upcomingDraw 0 = true) ∧
    (let s := pending 1 false 0xFFFFFF 4
     s.status.version ≠ 0 ∧ 0xFFFFFF ≤ s.encRes.toNat ∧ CanEmit s 4 ∧ s.upcomingDraw 0 = true) := by decide

/-- The ends of the extended range, and the closing zero record. -/
theorem witness_ExtendedRowsAreEmitted :
    (∀ s ∈ [pending 1 false 2048 4, pending 2 true 0xFFFFFE 4],
      s.status.version ≠ 0 ∧ CanEmit s 4 ∧ s.upcomingDraw 0 = true ∧ 2048 ≤ s.encRes.toNat ∧
      s.encRes.toNat < 0xFFFFFF) ∧
    (let s := pending 1 true 0 4
     s.status.version ≠ 0 ∧ CanEmit s 4 ∧ s.upcomingDraw 0 = true ∧ s.encRes = 0 ∧
     s.status.ovfMark = true) := by decide

theorem witness_ShortAndChainRows :
    (let s := pending 1 false 2047 1
     s.encRes.toNat = 2048 * 0 + 2047 ∧ CanEmit s (0 + 1) ∧ SinkAccepts s (0 + 1)) ∧
    (let s := pending 0 false 2049 2
     s.encRes.toNat = 2048 * 1 + 1 ∧ s.status.version = 0 ∧ CanEmit s (1 + 1) ∧
     SinkAccepts s (1 + 1)) := by decide

/-- A capacity one byte short, a counter one byte short, and a sink that refuses. -/
theorem witness_OwedRow :
    (let s := pending 1 false 5000 3
     Ready s .writing ∧ s.status.encPending = true ∧
     encNext s.status.version s.encRes.toNat s.status.ovfMark = some (.ext 5000) ∧
     s.arg1.toNat < s.encCount.toNat + (encodeUnit (.ext 5000)).length) ∧
    (let s : State := { pending 1 false 5 1 with outCount := 0xFFFFFFFF }
     Ready s .writing ∧ s.status.encPending = true ∧
     encNext s.status.version s.encRes.toNat s.status.ovfMark = some (.short 1) ∧
     s.encCount.toNat + (encodeUnit (.short 1)).length ≤ s.arg1.toNat ∧
     wordMax < s.outCount.toNat + (encodeUnit (.short 1)).length) ∧
    (let s : State := { pending 0 false 2048 1 with sinkDraws := [false] }
     Ready s .writing ∧ s.status.encPending = true ∧
     encNext s.status.version s.encRes.toNat s.status.ovfMark = some .zero ∧
     s.encCount.toNat + (encodeUnit .zero).length ≤ s.arg1.toNat ∧ SinkRoom s 1 ∧
     s.upcomingDraw 0 = false) := by decide

theorem witness_RowsOutsideTheirStream :
    (Instr.short 5).inSpace (.unit 0) = true ∧ (Instr.v0chain 1 5).inSpace (.record 0) = true ∧
    (∀ st ∈ [StreamState.idle, .closed, .interrupted, .error], (base.enter st).status.state = st) ∧
    ({ reading 0 0 [] with term := true } : State).term = true ∧
    Ready (reading 1 0 [6]) .reading ∧
    Ready (writing 1 false 0 0) .writing ∧ (writing 1 false 0 0).status.encPending = false := by decide

/-- The same first byte with another value, a form the version does not have, and another unit owed. -/
theorem witness_RowsOutsideTheirStream_unit :
    (let s := reading 1 0 [0, 1, 2, 3]
     Ready s .reading ∧ s.inImg.bytesFrom s.inPos.toNat 4 ≠ encodeUnit (.ext 5)) ∧
    (let s := reading 0 0 [0, 5, 0, 0]
     Ready s .reading ∧ (Instr.ext 5).inSpace (.unit s.status.version) = false) ∧
    (let s := pending 1 false 40 4
     Ready s .writing ∧ s.status.encPending = true ∧
     encNext s.status.version s.encRes.toNat s.status.ovfMark ≠ some (.short 6)) := by decide

/-- A chain with another closing byte and one with too few zero bytes, in READING and in WRITING. -/
theorem witness_RowsOutsideTheirStream_chain :
    (let s := reading 0 0 [0, 0, 5]
     Ready s .reading ∧ s.inImg.len ≤ wordMax ∧ s.dec.zeros = 0 ∧
     s.inImg.bytesFrom s.inPos.toNat (2 + 1) ≠ List.replicate 2 0 ++ [7] ∧
     s.inImg.bytesFrom s.inPos.toNat (1 + 1) ≠ List.replicate 1 0 ++ [5]) ∧
    (let s := pending 1 false 40 4
     Ready s .writing ∧ encNext s.status.version s.encRes.toNat s.status.ovfMark ≠ some .zero) ∧
    (let s := pending 0 false 4136 2
     CanEmit s 2 ∧ SinkAccepts s 2 ∧ s.encRes.toNat = 2048 * 2 + 40 ∧ (7 : Byte) ≠ recordByte 40) := by decide

/-- Another byte stands at the cursor than the one the row begins with, and no byte at all. -/
theorem witness_RowsOutsideTheirStream_notThere :
    (∀ b, HasAt (reading 1 0 [6]) 0 b → ∀ p bs, encode p (.short 5) ≠ .bytes (b :: bs)) ∧
    (∀ b, HasAt (reading 1 0 []) 0 b → ∀ p bs, encode p (.short 5) ≠ .bytes (b :: bs)) := by
  constructor
  · intro b hb p bs he
    have h6 : (6 : Byte) = b := Option.some.inj hb
    have h5 : (5 : Byte) = b := (List.cons.inj (Code.bytes.inj he)).1
    exact absurd (h6.trans h5.symm) (by decide)
  · intro b hb
    exact absurd hb nofun

theorem witness_ScalerConverts :
    (scaled 44100 985248 2).status.scalerReady = true ∧ 1 ≤ (44100 : Word).toNat ∧ 1 ≤ (985248 : Word).toNat ∧
    base.status.scalerReady ≠ true := by decide

theorem witness_RoundedDivision : 1 ≤ (1 : Nat) := by decide

/-- A clock equal to the rate, and above it. -/
theorem witness_SamplesSurvive : ∀ s ∈ [scaled 985248 985248 12345, scaled 44100 985248 100],
    s.status.scalerReady = true ∧ 1 ≤ s.scaleRate.toNat ∧ s.scaleRate.toNat ≤ s.scaleClock.toNat ∧
    exec .scaleS2C s = .next (after (exec .scaleS2C s)) ∧
    (after (exec .scaleS2C s)).status.result = .ok := by
  intro s hs
  rcases List.mem_cons.1 hs with rfl | hs
  · exact ⟨by decide, by decide, by decide, rfl, by decide⟩
  · rw [List.mem_singleton.1 hs]
    exact ⟨by decide, by decide, by decide, rfl, by decide⟩

theorem witness_Monotonic :
    let s := scaled 44100 985248 0
    (∃ t, exec .scaleS2C s = .next t ∧ t.status.result = .ok) ∧
    (∃ t, exec .scaleS2C { s with arg0 := 192244041 } = .next t ∧ t.status.result = .ok) ∧
    (∃ t, exec .scaleC2S s = .next t ∧ t.status.result = .ok) ∧ s.arg0 = 0 :=
  ⟨⟨_, rfl, rfl⟩, ⟨_, rfl, rfl⟩, ⟨_, rfl, rfl⟩, rfl⟩

/-- A patch of the last bytes of an image. -/
theorem witness_ImageWrites :
    (Memory.ofBytes [1, 0, 2]).wf = true ∧ 1 + [(7 : Byte), 0].length ≤ (Memory.ofBytes [1, 0, 2]).len := by
  decide

theorem witness_CanonicalImages :
    (Memory.ofBytes [1, 0, 2]).wf = true ∧ (Memory.ofBytes [1, 0, 2]).len = 3 := by decide

theorem witness_EveryStep :
    let s := (reading 1 0 [5]).withNext (.write 0 3)
    Inv s ∧ ∃ t, step s = .next t := ⟨by constructor <;> decide, _, rfl⟩

theorem witness_CommandsEndOnly : Inv (pending 2 true 7 0) ∧
    ∃ t, exec .encDrain (pending 2 true 7 0) = .next t := ⟨witness_inv_writing, _, rfl⟩

theorem witness_OnlyTheNamedCommands :
    Instr.inSpace .scaleCfg .command = true ∧ (Instr.scaleCfg ∉ [Instr.openRead, .recDecode, .reset]) ∧
    ({ base with status := { base.status with fault := true } } : State).status.fault = true ∧
    ∃ t, exec .scaleCfg base = .next t := ⟨by decide, by decide, rfl, _, rfl⟩

theorem witness_HeldStreams :
    let s := (pending 1 false 5 0).enter .interrupted
    s.status.state = .interrupted ∧ (s.enter .error).status.state = .error ∧
    (∃ t, exec .recDecode s = .next t) ∧ (∃ t, exec .close s = .next t) ∧ ∃ t, exec .reset s = .next t :=
  ⟨rfl, rfl, ⟨_, rfl⟩, ⟨_, rfl⟩, _, rfl⟩

end Sys2Proof.Tests
end

section
/-! Decoding what the encoder wrote (O2): one lemma for each part of a code, then one for each encoding
space (`30_encoding.md` R80 to R90, R97). -/

namespace Sys2Proof

/-! ## Numbers in bytes -/

theorem wordOfLE_leBytes (w : Word) : wordOfLE (leBytes 4 w.toNat) = w := by
  rw [wordOfLE, fromLE_leBytes w.isLt, BitVec.ofNat_toNat, BitVec.setWidth_eq]

theorem value24OfLE_leBytes (v : Value24) : value24OfLE (leBytes 3 v.toNat) = v := by
  rw [value24OfLE, fromLE_leBytes v.isLt, BitVec.ofNat_toNat, BitVec.setWidth_eq]

/-! ## Command words -/

theorem decodeCommand_illegal {w : Word} (h : (Instr.illegal w).wf = true) :
    decodeCommand w = .illegal w := by
  have hw : w.toNat = 0 ∨ 10 < w.toNat := by simpa [Instr.wf] using h
  unfold decodeCommand
  split
  case h_11 => rfl
  all_goals omega

/-- A word written to `CMD` selects a command, never a row of the data space (R80). -/
theorem decodeCommand_inSpace (w : Word) : (decodeCommand w).inSpace .command = true := by
  unfold decodeCommand
  split <;> rfl

theorem decode_encode_command (p : Params) {i : Instr} (rest : List Byte)
    (hwf : i.wf = true) (hsp : i.inSpace .command = true) :
    decode p .command ((encode p i).followedBy rest) = .ok (i, []) := by
  cases i with
  | illegal w => simp [encode, Code.followedBy, decode, decodeCommand_illegal hwf]
  | short | v0esc | v0chain | ext | extOvf | extZero | hdr => simp [Instr.inSpace] at hsp
  | _ => rfl

/-! ## The header -/

theorem familyOf_magicBytes {p : Params} (hp : p.magicA ≠ p.magicB) (f : Family) :
    familyOf p (magicBytes p f) = some f := by
  cases f with
  | primary => simp [familyOf, magicBytes]
  | alternate =>
    have hne : p.magicB.toList ≠ p.magicA.toList := fun h => hp (Vector.toList_inj.1 h.symm)
    simp [familyOf, magicBytes, hne]

theorem decodeHeader_encodeHeader {p : Params} {h : Header} (rest : List Byte)
    (hp : p.magicA ≠ p.magicB) (hver : h.ver.toNat ≤ 2) :
    decodeHeader p (encodeHeader p h ++ rest) = .ok (h, rest) := by
  have hlen : ¬ (encodeHeader p h ++ rest).length < 20 := by simp
  obtain ⟨l0, l1, l2, l3, hl⟩ : ∃ l0 l1 l2 l3, leBytes 4 h.len.toNat = [l0, l1, l2, l3] :=
    ⟨_, _, _, _, rfl⟩
  have hsplit : encodeHeader p h ++ rest =
      magicBytes p h.family ++ (h.ver :: h.mach :: h.vid :: h.rsv :: l0 :: l1 :: l2 :: l3 :: rest) := by
    simp [encodeHeader, hl]
  have hword : wordOfLE [l0, l1, l2, l3] = h.len := hl ▸ wordOfLE_leBytes h.len
  rw [decodeHeader, if_neg hlen, hsplit, List.take_left' (magicBytes_length p h.family),
    List.drop_left' (magicBytes_length p h.family), familyOf_magicBytes hp]
  simp [hword, Nat.not_lt.2 hver]

theorem decode_encode_header {p : Params} {i : Instr} (rest : List Byte) (hp : p.magicA ≠ p.magicB)
    (hwf : i.wf = true) (hsp : i.inSpace .header = true) :
    decode p .header ((encode p i).followedBy rest) = .ok (i, rest) := by
  cases i with
  | hdr h =>
    have hver : h.ver.toNat ≤ 2 := by simpa [Instr.wf] using hwf
    simp [encode, Code.followedBy, decode, decodeHeader_encodeHeader rest hp hver]
  | _ => simp [Instr.inSpace] at hsp

/-! ## Record units -/

/-- A unit's form is one the version has (R83): a SHORT byte is not zero, a lone zero byte is a unit in
version 0 only, an extended record in versions 1 and 2 only. -/
def RecUnit.Fits (ver : BitVec 2) : RecUnit → Prop
  | .short b => b ≠ 0
  | .zero => ver = 0
  | .ext _ => ver ≠ 0

theorem decodeUnit_nil (ver : BitVec 2) : decodeUnit ver [] = .error .empty := rfl

theorem decodeUnit_short (ver : BitVec 2) {b : Byte} (t : List Byte) (hb : b ≠ 0) :
    decodeUnit ver (b :: t) = .ok (.short b, t) :=
  if_pos hb

theorem decodeUnit_zero (t : List Byte) : decodeUnit 0 (0 :: t) = .ok (.zero, t) := rfl

theorem decodeUnit_ext {ver : BitVec 2} (b1 b2 b3 : Byte) (t : List Byte) (hver : ver ≠ 0) :
    decodeUnit ver (0 :: b1 :: b2 :: b3 :: t) = .ok (.ext (value24OfLE [b1, b2, b3]), t) :=
  if_neg hver

theorem decodeUnit_encodeUnit {ver : BitVec 2} {u : RecUnit} (rest : List Byte) (h : u.Fits ver) :
    decodeUnit ver (encodeUnit u ++ rest) = .ok (u, rest) := by
  cases u with
  | short b => exact decodeUnit_short ver rest h
  | zero =>
    obtain rfl : ver = 0 := h
    exact decodeUnit_zero rest
  | ext v =>
    obtain ⟨b1, b2, b3, hb⟩ : ∃ b1 b2 b3, leBytes 3 v.toNat = [b1, b2, b3] := ⟨_, _, _, rfl⟩
    have hval : value24OfLE [b1, b2, b3] = v := hb ▸ value24OfLE_leBytes v
    rw [encodeUnit, hb, ← hval]
    exact decodeUnit_ext b1 b2 b3 rest h

/-- A well-formed row of the unit space is one unit of that version, written as that unit. -/
theorem unit_of_inSpace (p : Params) {i : Instr} {ver : BitVec 2}
    (hwf : i.wf = true) (hsp : i.inSpace (.unit ver) = true) :
    ∃ u : RecUnit, u.Fits ver ∧ u.toInstr = i ∧ encode p i = .bytes (encodeUnit u) := by
  cases i with
  | short b => exact ⟨.short b, bne_iff_ne.1 hwf, rfl, rfl⟩
  | v0esc => exact ⟨.zero, beq_iff_eq.1 hsp, rfl, rfl⟩
  | ext v =>
    obtain ⟨h0, h1⟩ : v ≠ 0 ∧ v ≠ 0xFFFFFF := by simpa [Instr.wf] using hwf
    exact ⟨.ext v, bne_iff_ne.1 hsp, (if_neg h1).trans (if_neg h0), rfl⟩
  | extOvf => exact ⟨.ext 0xFFFFFF, bne_iff_ne.1 hsp, rfl, rfl⟩
  | extZero => exact ⟨.ext 0, bne_iff_ne.1 hsp, rfl, rfl⟩
  | _ => simp [Instr.inSpace] at hsp

theorem decode_encode_unit (p : Params) {i : Instr} {ver : BitVec 2} (rest : List Byte)
    (hwf : i.wf = true) (hsp : i.inSpace (.unit ver) = true) :
    decode p (.unit ver) ((encode p i).followedBy rest) = .ok (i, rest) := by
  obtain ⟨u, hfits, rfl, hcode⟩ := unit_of_inSpace p hwf hsp
  simp [hcode, Code.followedBy, decode, decodeUnit_encodeUnit rest hfits]

/-! ## Whole records -/

theorem decodeChain_closing (n : Nat) {b : Byte} (t : List Byte) (hb : b ≠ 0) :
    decodeChain n (b :: t) = .ok (.v0chain n b, t) :=
  if_neg hb

theorem decodeChain_zero (n : Nat) (t : List Byte) :
    decodeChain n (0 :: t) = decodeChain (n + 1) t := rfl

/-- The chain's count grows by the zero bytes read, up to the closing byte (R86). -/
theorem decodeChain_replicate (m n : Nat) {b : Byte} (rest : List Byte) (hb : b ≠ 0) :
    decodeChain m (List.replicate n 0 ++ b :: rest) = .ok (.v0chain (m + n) b, rest) := by
  induction n generalizing m with
  | zero => exact decodeChain_closing m rest hb
  | succ n ih =>
    have hcount : m + 1 + n = m + (n + 1) := by omega
    rw [List.replicate_succ, List.cons_append, decodeChain_zero, ih (m + 1), hcount]

/-- A unit that is no version-0 escape is a whole record. -/
theorem decodeRecord_of_decodeUnit {ver : BitVec 2} {bs rest : List Byte} {u : RecUnit}
    (h : decodeUnit ver bs = .ok (u, rest)) (hu : u ≠ .zero) :
    decodeRecord ver bs = .ok (u.toInstr, rest) := by
  cases u with
  | zero => exact absurd rfl hu
  | short b => simp [decodeRecord, h]
  | ext v => simp [decodeRecord, h]

/-- The record space holds the rows of the unit space but V0ESC, and the chains of version 0 (R83). -/
theorem inSpace_record {i : Instr} {ver : BitVec 2} (h : i.inSpace (.record ver) = true) :
    (i ≠ .v0esc ∧ i.inSpace (.unit ver) = true) ∨ (ver = 0 ∧ ∃ n b, i = .v0chain n b) := by
  cases i with
  | short | ext | extOvf | extZero => exact .inl ⟨nofun, h⟩
  | v0chain n b => exact .inr ⟨by simpa [Instr.inSpace] using h, n, b, rfl⟩
  | _ => simp [Instr.inSpace] at h

theorem decodeRecord_v0chain {n : Nat} {b : Byte} (rest : List Byte)
    (h : (Instr.v0chain n b).wf = true) :
    decodeRecord 0 (List.replicate n 0 ++ [b] ++ rest) = .ok (.v0chain n b, rest) := by
  obtain ⟨hn, hb⟩ : n ≠ 0 ∧ b ≠ 0 := by simpa [Instr.wf] using h
  obtain ⟨k, rfl⟩ := Nat.exists_eq_succ_of_ne_zero hn
  have hfirst : decodeUnit 0 (List.replicate (k + 1) 0 ++ [b] ++ rest) =
      .ok (.zero, List.replicate k 0 ++ b :: rest) := by
    rw [List.append_assoc, List.singleton_append]
    exact decodeUnit_zero _
  rw [decodeRecord, Nat.succ_eq_add_one, hfirst, Nat.add_comm k 1]
  exact decodeChain_replicate 1 k rest hb

theorem decode_encode_record (p : Params) {i : Instr} {ver : BitVec 2} (rest : List Byte)
    (hwf : i.wf = true) (hsp : i.inSpace (.record ver) = true) :
    decode p (.record ver) ((encode p i).followedBy rest) = .ok (i, rest) := by
  obtain ⟨hesc, hunit⟩ | ⟨rfl, n, b, rfl⟩ := inSpace_record hsp
  · obtain ⟨u, hfits, rfl, hcode⟩ := unit_of_inSpace p hwf hunit
    have hu : u ≠ .zero := fun h => hesc (h ▸ rfl)
    rw [hcode]
    exact decodeRecord_of_decodeUnit (decodeUnit_encodeUnit rest hfits) hu
  · exact decodeRecord_v0chain rest hwf

/-- Settles O2, space by space. -/
theorem decodeOfEncodeIsTheInstruction : Obligations.DecodeOfEncodeIsTheInstruction := by
  intro p i sp rest hp hwf hsp
  cases sp with
  | command => exact decode_encode_command p rest hwf hsp
  | header => exact decode_encode_header rest hp hwf hsp
  | unit ver => exact decode_encode_unit p rest hwf hsp
  | record ver => exact decode_encode_record p rest hwf hsp

end Sys2Proof
end

section
/-! Reading one byte of an image after an append and after a patch (O53; R16, log 6). -/

namespace Sys2Proof.Machine

theorem Memory.byte?_append {m : Memory} (bs : List Byte) (h : m.wf = true) (x : Nat) :
    (m.append bs).byte? x = if x < m.len then m.byte? x else bs[x - m.len]? := by
  induction bs generalizing m with
  | nil =>
    have hout : ¬ x < m.len → m.byte? x = none := fun hx => if_neg hx
    simpa [Memory.append] using hout
  | cons b t ih =>
    rw [Memory.append, ih (Memory.push_wf b h), Memory.byte?_push b h, Memory.push_len]
    obtain hlt | rfl | hgt := Nat.lt_trichotomy x m.len
    · simp [hlt, hlt.ne, Nat.lt_succ_of_lt hlt]
    · simp
    · have hindex : x - m.len = x - (m.len + 1) + 1 := by omega
      rw [if_neg (by omega), if_neg (by omega), hindex, List.getElem?_cons_succ]

theorem Memory.byte?_patch {m : Memory} {a : Nat} (bs : List Byte) (h : m.wf = true)
    (ha : a + bs.length ≤ m.len) (x : Nat) :
    (m.patch a bs).byte? x = if a ≤ x ∧ x < a + bs.length then bs[x - a]? else m.byte? x := by
  induction bs generalizing m a with
  | nil =>
    have hout : ¬ (a ≤ x ∧ x < a + ([] : List Byte).length) := by simp
    rw [if_neg hout, Memory.patch]
  | cons b t ih =>
    rw [List.length_cons] at ha ⊢
    rw [Memory.patch, ih (Memory.poke_wf b h (by omega)) (by rw [Memory.poke_len]; omega),
      Memory.byte?_poke b h (by omega)]
    obtain hlt | rfl | hgt := Nat.lt_trichotomy x a
    · rw [if_neg (by omega), if_neg (by omega), if_neg (by omega)]
    · rw [if_neg (by omega), if_pos rfl, if_pos (by omega), Nat.sub_self, List.getElem?_cons_zero]
    · have hindex : x - a = x - (a + 1) + 1 := by omega
      have hrange : (a + 1 ≤ x ∧ x < a + 1 + t.length) ↔ (a ≤ x ∧ x < a + (t.length + 1)) := by omega
      simp only [hrange, hgt.ne', if_false, hindex, List.getElem?_cons_succ]

/-- Settles O53. -/
theorem imageWritesChangeOnlyTheirBytes : Obligations.ImageWritesChangeOnlyTheirBytes := by
  intro m bs h
  refine ⟨⟨Memory.append_wf bs h, Memory.append_len m bs, Memory.byte?_append bs h⟩, fun a ha => ?_⟩
  exact ⟨Memory.patch_wf bs h ha, Memory.patch_len m a bs, Memory.byte?_patch bs h ha⟩

end Sys2Proof.Machine
end

section
/-! Why no step faults under the invariant (O57): for each command that can fault, the precondition its rule
states is part of the invariant, and its loop keeps it (R15, R16, R130, R196; log 12). -/

namespace Sys2Proof.Machine

/-! ## Loops that do not stop -/

/-- The command has not stopped with a fault, and where it goes on it keeps `under`. -/
def Micro.Safe (under : State → Prop) : Micro → Prop
  | .more s => under s
  | .done _ => True
  | .stop _ => False

theorem Micro.Safe.out_ne_fault {under : State → Prop} {m : Micro} (h : m.Safe under) (f : Fault) :
    m.out ≠ .fault f := by
  cases m with
  | more s => exact nofun
  | done s => exact nofun
  | stop f => exact absurd h id

theorem Micro.Safe.andThen {under : State → Prop} {m : Micro} {k : State → Micro}
    (hm : m.Safe under) (hk : ∀ s, under s → (k s).Safe under) : (m.andThen k).Safe under := by
  cases m with
  | more s => exact hk s hm
  | done s => exact trivial
  | stop f => exact hm

theorem decLoop_safe {under : State → Prop} (turn : ∀ s, under s → (decTurn s).Safe under)
    (fuel : Nat) {s : State} (h : under s) : (decLoop fuel s).Safe under := by
  induction fuel generalizing s with
  | zero => exact h
  | succ n ih => exact (turn s h).andThen fun _ => ih

theorem encLoop_safe {under : State → Prop} (turn : ∀ s, under s → (encTurn s).Safe under)
    (fuel : Nat) {s : State} (h : under s) : (encLoop fuel s).Safe under := by
  induction fuel generalizing s with
  | zero => exact h
  | succ n ih => exact (turn s h).andThen fun _ => ih

/-- The checks of a pulse command never fault; its work does not where the checks let it run. -/
theorem pulseGate_ne_fault {home : StreamState} {work : State → Out} {s : State} {f : Fault}
    (hwork : s.status.state = home → work s ≠ .fault f) : pulseGate home work s ≠ .fault f := by
  intro h
  obtain ⟨-, h⟩ | ⟨-, h⟩ | ⟨-, -, -, h⟩ | ⟨-, -, h⟩ | ⟨hs, -, h⟩ := pulseGate_cases h
  · cases h
  · cases h
  · cases h
  · cases h
  · exact hwork hs h.symm

/-- The checks of an OPEN command never fault. -/
theorem openGate_ne_fault {work : State → Out} {s : State} {f : Fault} (hwork : work s ≠ .fault f) :
    openGate work s ≠ .fault f := by
  intro h
  obtain ⟨-, -, h⟩ | ⟨-, -, h⟩ | ⟨-, -, h⟩ := openGate_cases h
  · cases h
  · cases h
  · exact hwork h.symm

/-! ## REC_DECODE -/

/-- The cursor lies in an image that 32 bits can count (R26, R52). -/
def CursorInside (s : State) : Prop := s.inPos.toNat ≤ s.inImg.len ∧ s.inImg.len ≤ wordMax

/-- Where a unit stands at the cursor, the image has a byte there. -/
theorem inPos_lt_of_unitAtCursor {s : State} {u : RecUnit} (h : s.unitAtCursor = .ok u) :
    s.inPos.toNat < s.inImg.len := by
  by_contra hge
  have hnone : s.inImg.byte? s.inPos.toNat = none := if_neg hge
  have hbytes : s.inImg.bytesFrom s.inPos.toNat 4 = [] := by simp [Memory.bytesFrom, hnone]
  simp [State.unitAtCursor, hbytes, decodeUnit_nil] at h

/-- A byte inside the image is taken without wrapping the cursor. -/
theorem inPos_succ_toNat {s : State} (h : CursorInside s) (hlt : s.inPos.toNat < s.inImg.len) :
    (s.inPos + BitVec.ofNat 32 1).toNat = s.inPos.toNat + 1 := by
  have hbound : s.inImg.len ≤ 4294967295 := h.2
  simp only [BitVec.toNat_add, BitVec.toNat_ofNat]
  omega

theorem decZero_safe {s : State} (h : CursorInside s) (hlt : s.inPos.toNat < s.inImg.len) :
    (decZero s).Safe CursorInside := by
  have hnext : (s.inPos + BitVec.ofNat 32 1).toNat ≤ s.inImg.len := by
    rw [inPos_succ_toNat h hlt]; exact hlt
  obtain ⟨-, he⟩ | ⟨-, -, he⟩ | ⟨-, -, he⟩ := decZero_cases s
  · rw [he]; exact ⟨hnext, h.2⟩
  · rw [he]; trivial
  · rw [he]; exact ⟨hnext, h.2⟩

/-- A non-zero byte ends the record (R149, R152, R153). -/
theorem decShort_done (b : Byte) (s : State) : ∃ t, decShort b s = .done t := by
  unfold decShort
  split_ifs <;> exact ⟨_, rfl⟩

theorem decUnit_safe {u : RecUnit} {s : State} (h : CursorInside s) (hu : s.unitAtCursor = .ok u) :
    (decUnit u s).Safe CursorInside := by
  cases u with
  | short b =>
    obtain ⟨t, ht⟩ := decShort_done b s
    rw [decUnit, ht]; trivial
  | zero => exact decZero_safe h (inPos_lt_of_unitAtCursor hu)
  | ext v => trivial

theorem decTurn_safe {s : State} (h : CursorInside s) : (decTurn s).Safe CursorInside := by
  obtain ⟨hout, -⟩ | ⟨-, u, hu, he⟩ | ⟨-, -, he⟩ | ⟨-, -, he⟩ := decTurn_cases s
  · exact absurd h.1 (Nat.not_le.2 hout)
  · rw [he]; exact decUnit_safe h hu
  · rw [he]; trivial
  · rw [he]; trivial

theorem execRecDecode_ne_fault {s : State} (h : Inv s) (f : Fault) : execRecDecode s ≠ .fault f :=
  pulseGate_ne_fault fun _ =>
    have hstart : CursorInside s.beginRecord := ⟨h.cursorInside, h.inBound⟩
    (decLoop_safe (fun _ => decTurn_safe) _ hstart).out_ne_fault f

/-! ## ENC_PULSE and ENC_DRAIN -/

/-- `OUT_COUNT` counts the bytes of `OUT_IMG` (R53). -/
def CountsImage (s : State) : Prop := s.outCount.toNat = s.outImg.len

/-- What a unit accounts for moves neither the count nor the image. -/
theorem encAccount_safe (u : RecUnit) {s : State} (h : CountsImage s) :
    (encAccount u s).Safe CountsImage := by
  cases u with
  | short b => trivial
  | zero => exact h
  | ext v =>
    by_cases hv : v = 0xFFFFFF
    · rw [encAccount, if_pos hv]; exact h
    · rw [encAccount, if_neg hv]; trivial

/-- The count after a record within the counter's limit is the length of the image with the record. -/
theorem countsImage_append {s : State} {bs : List Byte} (h : CountsImage s)
    (hmax : s.outCount.toNat + bs.length ≤ wordMax) :
    (s.outCount + BitVec.ofNat 32 bs.length).toNat = (s.outImg.append bs).len := by
  have hbound : s.outCount.toNat + bs.length ≤ 4294967295 := hmax
  have hcount : s.outCount.toNat = s.outImg.len := h
  simp only [BitVec.toNat_add, BitVec.toNat_ofNat, Memory.append_len]
  omega

theorem encUnit_safe (u : RecUnit) {s : State} (h : CountsImage s) :
    (encUnit u s).Safe CountsImage := by
  obtain ⟨-, he⟩ | ⟨-, -, he⟩ | ⟨-, hmax, ⟨f, hw, -⟩ | ⟨t, -, he⟩ | ⟨t, hw, he⟩⟩ := encUnit_cases u s
  · rw [he]; trivial
  · rw [he]; trivial
  · obtain ⟨-, hne, -⟩ := memWrite_error hw
    exact absurd h hne
  · rw [he]; trivial
  · rw [he]
    apply encAccount_safe
    obtain ⟨hok, -⟩ | ⟨-, -, rfl⟩ | ⟨-, hne, -⟩ := memWrite_cases hw
    · cases hok
    · exact countsImage_append h hmax
    · exact absurd h hne

theorem encTurn_safe {s : State} (h : CountsImage s) : (encTurn s).Safe CountsImage := by
  obtain ⟨-, he⟩ | ⟨u, -, he⟩ := encTurn_cases s
  · rw [he]; trivial
  · rw [he]; exact encUnit_safe u h

theorem encStep_ne_fault {s : State} (h : CountsImage s) (f : Fault) : encStep s ≠ .fault f :=
  have hstart : CountsImage { s with encCount := 0 } := h
  (encLoop_safe (fun _ => encTurn_safe) _ hstart).out_ne_fault f

theorem Inv.countsImage_of_writing {s : State} (h : Inv s) (hs : s.status.state = .writing) :
    CountsImage s :=
  (h.counted (h.writeDir hs) (.inl hs)).1

theorem execEncPulse_ne_fault {s : State} (h : Inv s) (f : Fault) : execEncPulse s ≠ .fault f := by
  refine pulseGate_ne_fault fun hs => ?_
  have hloaded : CountsImage s.loadPulse := h.countsImage_of_writing hs
  split_ifs
  · exact nofun
  · exact encStep_ne_fault hloaded f

theorem execEncDrain_ne_fault {s : State} (h : Inv s) (f : Fault) : execEncDrain s ≠ .fault f := by
  refine pulseGate_ne_fault fun hs => ?_
  split_ifs
  · exact encStep_ne_fault (h.countsImage_of_writing hs) f
  · exact nofun

/-! ## The stream commands -/

theorem execOpenRead_ne_fault (s : State) (f : Fault) : execOpenRead s ≠ .fault f := by
  refine openGate_ne_fault ?_
  cases s.headerAtFront <;> exact nofun

/-- The header is appended to an image OPEN_WRITE has emptied (R125). -/
theorem execOpenWrite_ne_fault (s : State) (f : Fault) : execOpenWrite s ≠ .fault f := by
  refine openGate_ne_fault ?_
  rw [memWrite_append _ (show 0 = ({ s with outImg := Memory.empty } : State).outImg.len from rfl)]
  exact nofun

/-- In every state CLOSE accepts, a write stream holds at least its header (R53, R132). -/
theorem Inv.counted_of_open {s : State} (h : Inv s)
    (hs : ¬ (s.status.state = .idle ∨ s.status.state = .closed)) (hd : s.status.dir ≠ .read) :
    s.outCount.toNat = s.outImg.len ∧ 20 ≤ s.outCount.toNat := by
  have hwrite : s.status.dir = .write := by
    cases hdir : s.status.dir with
    | read => exact absurd hdir hd
    | write => rfl
  refine h.counted hwrite ?_
  cases hstate : s.status.state with
  | idle => exact absurd (.inl hstate) hs
  | closed => exact absurd (.inr hstate) hs
  | reading => exact absurd (h.readDir hstate) hd
  | writing => exact .inl rfl
  | interrupted => exact .inr (.inl rfl)
  | error => exact .inr (.inr rfl)

theorem execClose_ne_fault {s : State} (h : Inv s) (f : Fault) : execClose s ≠ .fault f := by
  unfold execClose
  split_ifs with hs hd hcount
  · exact nofun
  · exact nofun
  · exact absurd (h.counted_of_open hs hd).2 (Nat.not_le.2 hcount)
  · obtain ⟨hlen, h20⟩ := h.counted_of_open hs hd
    cases hw : memWrite 16 (leBytes 4 (s.outCount.toNat - 20)) s.closeWriting with
    | ok r => exact nofun
    | error e =>
      obtain ⟨-, -, hpast⟩ := memWrite_error hw
      have himg : s.closeWriting.outImg = s.outImg := rfl
      rw [himg, leBytes_length] at hpast
      omega

/-! ## The scaler -/

theorem scaleBy_ne_fault (m : Word) {d : Word} {s : State}
    (hd : s.status.scalerReady = true → 1 ≤ d.toNat) (f : Fault) : scaleBy m d s ≠ .fault f := by
  obtain ⟨-, he⟩ | ⟨hready, rfl, -⟩ | ⟨-, -, -, he⟩ | ⟨-, -, -, he⟩ := scaleBy_cases m d s
  · rw [he]; exact nofun
  · exact absurd (hd hready) (by decide)
  · rw [he]; exact nofun
  · rw [he]; exact nofun

theorem execScaleCfg_ne_fault (s : State) (f : Fault) : execScaleCfg s ≠ .fault f := by
  unfold execScaleCfg
  split_ifs <;> exact nofun

/-! ## Every command, every access -/

theorem exec_command_ne_fault {i : Instr} {s : State} (h : Inv s) (hi : i.inSpace .command = true)
    (f : Fault) : exec i s ≠ .fault f := by
  cases i with
  | openRead => exact execOpenRead_ne_fault s f
  | openWrite => exact execOpenWrite_ne_fault s f
  | recDecode => exact execRecDecode_ne_fault h f
  | encPulse => exact execEncPulse_ne_fault h f
  | encDrain => exact execEncDrain_ne_fault h f
  | close => exact execClose_ne_fault h f
  | scaleCfg => exact execScaleCfg_ne_fault s f
  | scaleS2C => exact scaleBy_ne_fault _ (fun hr => (h.scaler hr).1) f
  | scaleC2S => exact scaleBy_ne_fault _ (fun hr => (h.scaler hr).2) f
  | reset | illegal => exact nofun
  | short | v0esc | v0chain | ext | extOvf | extZero | hdr => simp [Instr.inSpace] at hi

/-- An access that runs no command is answered with a next state or refused (R55, R71). -/
theorem busRequest_access_ne_fault {op : BusOp} {s : State} {o : Out}
    (h : busRequest op s = .access o) (f : Fault) : o ≠ .fault f := by
  rintro rfl
  cases op with
  | write offset w | read offset | attachInput bytes | attachSink =>
    simp only [busRequest] at h
    split_ifs at h <;> exact nomatch Request.access.inj h
  | narrow offset => exact nomatch Request.access.inj h

/-- The invariant says nothing of the accesses to come (log 4). -/
theorem Inv.withHost {s : State} (h : Inv s) (ops : List BusOp) : Inv { s with host := ops } :=
  ⟨h.noResidual, h.cursor, h.cursorInside, h.counted, h.version, h.scaler, h.readDir, h.writeDir,
    h.config, h.params, h.inCanonical, h.outCanonical, h.inBound, h.outBound, h.offeredImage,
    h.decIdle, h.encIdle⟩

/-- Settles O57. An OPEN_READ that is given an attached image starts from a state that may miss
`IN_POS ≤ IN_LEN`, but it faults from no state; every other command starts from the invariant. -/
theorem noStepFaultsUnderTheInvariant : Obligations.NoStepFaultsUnderTheInvariant := by
  intro s f h
  obtain ⟨-, he⟩ | ⟨op, rest, -, ⟨w, -, he⟩ | ⟨o, ho, he⟩⟩ := step_cases s
  · rw [he]; exact nofun
  · rw [he]
    by_cases hi : decodeCommand w = .openRead
    · rw [hi]; exact execOpenRead_ne_fault _ f
    · rw [State.deliver_of_ne _ hi]
      exact exec_command_ne_fault (h.withHost rest) (decodeCommand_inSpace w) f
  · rw [he]; exact busRequest_access_ne_fault ho f

end Sys2Proof.Machine
end

section
/-! What each stream command and the decoder's reads can do, said once: the lemmas O56 and O59 turn on (R81,
R90, R120, R125, R132). -/

namespace Sys2Proof.Machine

/-! ## Units and headers inside the image -/

@[simp] theorem Memory.bytesFrom_length (m : Memory) (a n : Nat) :
    (m.bytesFrom a n).length = min n (m.len - a) := by
  induction n generalizing a with
  | zero => simp [Memory.bytesFrom]
  | succ n ih =>
    by_cases ha : a < m.len
    · simp only [Memory.bytesFrom, Memory.byte?, if_pos ha, List.length_cons, ih]
      omega
    · simp only [Memory.bytesFrom, Memory.byte?, if_neg ha, List.length_nil]
      omega

/-- A unit is read out of at least as many bytes as its code has. -/
theorem encodeUnit_length_le_of_decodeUnit {ver : BitVec 2} {bs rest : List Byte} {u : RecUnit}
    (h : decodeUnit ver bs = .ok (u, rest)) : (encodeUnit u).length ≤ bs.length := by
  unfold decodeUnit at h
  split at h
  · cases h
  · split_ifs at h
    · cases h; simp [encodeUnit]
    · cases h; simp [encodeUnit]
    · split at h
      · cases h; simp [encodeUnit]
      · cases h

/-- The whole unit at the cursor lies inside the image. -/
theorem inPos_add_le_of_unitAtCursor {s : State} {u : RecUnit} (h : s.unitAtCursor = .ok u) :
    s.inPos.toNat + (encodeUnit u).length ≤ s.inImg.len := by
  have hlt := inPos_lt_of_unitAtCursor h
  unfold State.unitAtCursor at h
  split at h
  next u' rest hdec =>
    cases h
    have hlen := encodeUnit_length_le_of_decodeUnit hdec
    rw [Memory.bytesFrom_length] at hlen
    omega
  next => cases h

theorem cfgVer_le_of_cfgValid {w : Word} (h : cfgValid w = true) : (cfgVer w).toNat ≤ 2 := by
  simp only [cfgValid, Bool.and_eq_true, decide_eq_true_eq] at h
  exact h.1.1

theorem decodeHeader_bounds {p : Params} {bs rest : List Byte} {hd : Header}
    (h : decodeHeader p bs = .ok (hd, rest)) : 20 ≤ bs.length ∧ hd.ver.toNat ≤ 2 := by
  unfold decodeHeader at h
  split_ifs at h with hlen
  refine ⟨Nat.not_lt.1 hlen, ?_⟩
  split at h
  · cases h
  · split_ifs at h with hver
    cases h
    exact Nat.not_lt.1 hver
  · cases h

/-- An image with a valid header has all its 20 bytes, and a version of at most 2 (R81, R82). -/
theorem headerAtFront_bounds {s : State} {hd : Header} (h : s.headerAtFront = some hd) :
    20 ≤ s.inImg.len ∧ hd.ver.toNat ≤ 2 := by
  unfold State.headerAtFront at h
  split at h
  next hd' rest hdec =>
    cases h
    obtain ⟨hlen, hver⟩ := decodeHeader_bounds hdec
    rw [Memory.bytesFrom_length] at hlen
    exact ⟨by omega, hver⟩
  next => cases h

/-! ## What each stream command can do -/

/-- Everything OPEN_READ can do (R120). -/
theorem execOpenRead_cases {s t : State} (h : execOpenRead s = .next t) :
    (s.status.state ≠ .idle ∧ s.status.state ≠ .closed ∧ t = s.finish .invalidArguments) ∨
    (MayOpen s ∧ cfgValid s.arg0 = false ∧ t = s.finish .invalidArguments) ∨
    (MayOpen s ∧ cfgValid s.arg0 = true ∧ s.headerAtFront = none ∧ t = s.rejectImage) ∨
    (MayOpen s ∧ cfgValid s.arg0 = true ∧ ∃ hd, s.headerAtFront = some hd ∧ t = s.acceptHeader hd) := by
  obtain ⟨hidle, hclosed, he⟩ | ⟨hs, hcfg, he⟩ | ⟨hs, hcfg, he⟩ := openGate_cases h
  · cases he; exact .inl ⟨hidle, hclosed, rfl⟩
  · cases he; exact .inr (.inl ⟨hs, hcfg, rfl⟩)
  · cases hf : s.headerAtFront with
    | none =>
      simp only [hf] at he
      cases he
      exact .inr (.inr (.inl ⟨hs, hcfg, rfl, rfl⟩))
    | some hd =>
      simp only [hf] at he
      cases he
      exact .inr (.inr (.inr ⟨hs, hcfg, hd, rfl, rfl⟩))

/-- Everything OPEN_WRITE can do (R125). -/
theorem execOpenWrite_cases {s t : State} (h : execOpenWrite s = .next t) :
    (s.status.state ≠ .idle ∧ s.status.state ≠ .closed ∧ t = s.finish .invalidArguments) ∨
    (MayOpen s ∧ cfgValid s.arg0 = false ∧ t = s.finish .invalidArguments) ∨
    (MayOpen s ∧ cfgValid s.arg0 = true ∧
      t = ({ s with outImg := Memory.empty }.skipDraws 1).finish .backendError) ∨
    (MayOpen s ∧ cfgValid s.arg0 = true ∧
      t = ({ s.skipDraws 1 with
        outImg := Memory.ofBytes (encodeHeader s.par (headerToWrite s.arg0)) } : State).openForWriting) := by
  obtain ⟨hidle, hclosed, he⟩ | ⟨hs, hcfg, he⟩ | ⟨hs, hcfg, he⟩ := openGate_cases h
  · cases he; exact .inl ⟨hidle, hclosed, rfl⟩
  · cases he; exact .inr (.inl ⟨hs, hcfg, rfl⟩)
  · rw [memWrite_append _ (show 0 = ({ s with outImg := Memory.empty } : State).outImg.len from rfl)] at he
    cases hdraw : ({ s with outImg := Memory.empty } : State).upcomingDraw 0 <;> rw [hdraw] at he <;> cases he
    · exact .inr (.inr (.inl ⟨hs, hcfg, rfl⟩))
    · exact .inr (.inr (.inr ⟨hs, hcfg, rfl⟩))

/-- Everything CLOSE can do (R132). -/
theorem execClose_cases {s t : State} (h : execClose s = .next t) :
    (MayOpen s ∧ t = s.finish .invalidArguments) ∨
    (¬ MayOpen s ∧ s.status.dir = .read ∧ t = (s.enter .closed).finish .ok) ∨
    (¬ MayOpen s ∧ s.status.dir ≠ .read ∧ ∃ ok u,
      memWrite 16 (leBytes 4 (s.outCount.toNat - 20)) s.closeWriting = .ok (ok, u) ∧
      t = u.finish (if ok then .ok else .backendError)) := by
  unfold execClose at h
  split_ifs at h with hs hd
  · cases h; exact .inl ⟨hs, rfl⟩
  · cases h; exact .inr (.inl ⟨hs, hd, rfl⟩)
  · cases hw : memWrite 16 (leBytes 4 (s.outCount.toNat - 20)) s.closeWriting with
    | error f => rw [hw] at h; cases h
    | ok r =>
      rw [hw] at h
      cases h
      exact .inr (.inr ⟨hs, hd, r.1, r.2, rfl, rfl⟩)

end Sys2Proof.Machine
end

section
/-! The invariant is kept by every step (O56; R26, R53). Each command's lemma starts from the invariant; inside
REC_DECODE and `EncStep` it holds of the state without the working values of that command (R54). -/

namespace Sys2Proof.Machine

/-! ## Updates that keep the invariant -/

section
variable {s : State}

theorem Inv.finish (h : Inv s) (c : ResultCode) : Inv (s.finish c) := { h with }

theorem Inv.raiseFault (h : Inv s) : Inv s.raiseFault := { h with }

theorem Inv.results (h : Inv s) (r0 r1 : Word) : Inv (s.results r0 r1) := { h with }

/-- A stream that is stopped keeps its direction, and a write stream its counted image (R34, R53). -/
theorem Inv.enter_held (h : Inv s) (hs : s.status.state = .reading ∨ s.status.state = .writing)
    {st : StreamState} (hst : st = .interrupted ∨ st = .error) : Inv (s.enter st) :=
  have hcounted : s.status.dir = .write → s.outCount.toNat = s.outImg.len ∧ 20 ≤ s.outCount.toNat := by
    intro hd
    obtain hr | hw := hs
    · simp [h.readDir hr] at hd
    · exact h.counted hd (.inl hw)
  { h with
    cursor := by rintro rfl; simp at hst
    counted := fun hd _ => hcounted hd
    readDir := by rintro rfl; simp at hst
    writeDir := by rintro rfl; simp at hst }

theorem Inv.cancel (h : Inv s) (hs : s.status.state = .reading ∨ s.status.state = .writing) :
    Inv s.cancel :=
  (h.enter_held hs (.inl rfl)).finish _

theorem Inv.overLimit (h : Inv s) (hs : s.status.state = .reading ∨ s.status.state = .writing) :
    Inv s.overLimit :=
  (h.raiseFault.enter_held hs (.inr rfl)).finish _

/-- Where no stream is open another input image may come in, with the cursor set back (R52, R117, R118). -/
theorem Inv.readFrom (h : Inv s) (hs : s.status.state = .idle ∨ s.status.state = .closed) {m : Memory}
    {o : Option Memory} (hwf : m.wf = true) (hlen : m.len ≤ wordMax)
    (ho : o.all (fun m => m.wf && decide (m.len ≤ wordMax)) = true) :
    Inv { s with inImg := m, offered := o, inPos := 0 } :=
  { h with
    cursor := fun hr => by simp [show s.status.state = .reading from hr] at hs
    cursorInside := Nat.zero_le _
    inCanonical := hwf
    inBound := hlen
    offeredImage := ho }

/-- Where no stream is open nothing is asked of the cursor and the counter but R26 (R53). -/
theorem Inv.enter_closed (h : Inv s) : Inv (s.enter .closed) :=
  { h with
    cursor := nofun
    counted := fun _ hs => by simp at hs
    readDir := nofun
    writeDir := nofun }

/-- A fresh sink comes in only where no write stream counts the bytes of the old one (R71). -/
theorem Inv.freshSink (h : Inv s) (hopen : s.status.streamOpen .write = false) :
    Inv { s with outImg := Memory.empty } :=
  { h with
    counted := fun hd hs => by
      have hd : s.status.dir = .write := hd
      obtain hs | hs | hs : s.status.state = .writing ∨ s.status.state = .interrupted ∨
        s.status.state = .error := hs
      all_goals simp [Status.streamOpen, hs, hd] at hopen
    outCanonical := Memory.empty_wf
    outBound := Nat.zero_le _ }

end

/-- The checks of a pulse command keep the invariant, if its work does. -/
theorem pulseGate_keeps_inv {home : StreamState} {work : State → Out} {s t : State} (h : Inv s)
    (hhome : home = .reading ∨ home = .writing)
    (hwork : s.status.state = home → work s = .next t → Inv t)
    (ht : pulseGate home work s = .next t) : Inv t := by
  obtain ⟨-, he⟩ | ⟨-, he⟩ | ⟨-, -, -, he⟩ | ⟨hs, -, he⟩ | ⟨hs, -, he⟩ := pulseGate_cases ht
  · cases he; exact h.finish _
  · cases he; exact h.finish _
  · cases he; exact h.finish _
  · cases he; exact h.cancel (hs ▸ hhome)
  · exact hwork hs he.symm

/-! ## Loops that end -/

/-- A loop with more turns than its measure has steps ends within a turn (R148, R170). -/
theorem Micro.loop_ends {turn : State → Micro} {loop : Nat → State → Micro}
    (hloop : ∀ n s, loop (n + 1) s = (turn s).andThen (loop n)) {left : State → Nat}
    {under last : State → Prop}
    (hturn : ∀ s, under s → (turn s).Meets (fun t => under t ∧ left t < left s) last)
    (fuel : Nat) {s : State} (h : under s) (hfuel : left s < fuel) :
    (loop fuel s).Meets (fun _ => False) last := by
  induction fuel generalizing s with
  | zero => exact absurd hfuel (Nat.not_lt_zero _)
  | succ n ih =>
    have hs := hturn s h
    rw [hloop]
    cases hm : turn s with
    | more t =>
      rw [hm] at hs
      exact ih hs.1 (Nat.lt_of_lt_of_le hs.2 (Nat.le_of_lt_succ hfuel))
    | done t => rw [hm] at hs; exact hs
    | stop f => trivial

/-- A command whose loop ends answers with the loop's last state. -/
theorem Micro.Meets.last_of_out {last : State → Prop} {m : Micro} {t : State}
    (h : m.Meets (fun _ => False) last) (ht : m.out = .next t) : last t := by
  obtain rfl | rfl := Micro.out_next ht
  · exact absurd h id
  · exact h

/-! ## REC_DECODE -/

/-- Inside REC_DECODE the stream is in READING, and the invariant holds but for what DEC keeps (R54). -/
def Decoding (s : State) : Prop := s.status.state = .reading ∧ Inv s.endRecord

section
variable {s : State}

/-- The cursor may move on, up to the end of the image. -/
theorem Decoding.moveTo (h : Decoding s) {p : Word} (hp : s.inPos.toNat ≤ p.toNat)
    (hlen : p.toNat ≤ s.inImg.len) : Decoding { s with inPos := p } :=
  ⟨h.1, { h.2 with
    cursor := fun hr => ⟨(h.2.cursor hr).1.trans hp, hlen⟩
    cursorInside := hlen }⟩

theorem Decoding.toNat_consume (h : Decoding s) {n : Nat} (hn : s.inPos.toNat + n ≤ s.inImg.len) :
    (s.consume n).inPos.toNat = s.inPos.toNat + n := by
  have hbound : s.inImg.len ≤ 4294967295 := h.2.inBound
  simp only [State.consume_inPos, BitVec.toNat_add, BitVec.toNat_ofNat]
  omega

theorem Decoding.consume (h : Decoding s) {n : Nat} (hn : s.inPos.toNat + n ≤ s.inImg.len) :
    Decoding (s.consume n) :=
  have hpos := h.toNat_consume hn
  h.moveTo (hpos ▸ Nat.le_add_right _ _) (hpos ▸ hn)

theorem Decoding.working (h : Decoding s) (d : DecWork) : Decoding { s with dec := d } := ⟨h.1, h.2⟩

theorem Decoding.decoded (h : Decoding s) (cycles : Word) (form : Nat) : Inv (s.decoded cycles form) :=
  (h.2.results _ _).finish _

theorem Decoding.endOfInput (h : Decoding s) : Inv s.endOfInput := (h.2.results _ _).finish _

end

/-- Bytes of the input image from the cursor on. -/
def State.bytesLeft (s : State) : Nat := s.inImg.len - s.inPos.toNat

theorem decZero_meets_inv {s : State} (h : Decoding s) (hn : s.inPos.toNat + 1 ≤ s.inImg.len) :
    (decZero s).Meets (fun t => Decoding t ∧ t.bytesLeft < s.bytesLeft) Inv := by
  have hnext := h.consume hn
  have hless : s.inImg.len - (s.inPos + BitVec.ofNat 32 1).toNat < s.inImg.len - s.inPos.toNat := by
    rw [← State.consume_inPos, h.toNat_consume hn]
    omega
  obtain ⟨-, he⟩ | ⟨-, -, he⟩ | ⟨-, -, he⟩ := decZero_cases s
  · rw [he]; exact ⟨hnext.working _, hless⟩
  · rw [he]; exact hnext.2.overLimit (.inl hnext.1)
  · rw [he]; exact ⟨hnext.working _, hless⟩

theorem decShort_meets_inv {under : State → Prop} {b : Byte} {s : State} (h : Decoding s)
    (hn : s.inPos.toNat + 1 ≤ s.inImg.len) : (decShort b s).Meets under Inv := by
  unfold decShort
  split_ifs <;> exact (h.consume hn).decoded _ _

theorem decTurn_meets_inv {s : State} (h : Decoding s) :
    (decTurn s).Meets (fun t => Decoding t ∧ t.bytesLeft < s.bytesLeft) Inv := by
  obtain ⟨-, he⟩ | ⟨-, u, hu, he⟩ | ⟨hle, -, he⟩ | ⟨-, -, he⟩ := decTurn_cases s
  · rw [he]; trivial
  · rw [he]
    have hn := inPos_add_le_of_unitAtCursor hu
    cases u with
    | short b => exact decShort_meets_inv h hn
    | zero => exact decZero_meets_inv h hn
    | ext v => exact ((h.consume hn).2.results _ _).finish _
  · rw [he]
    have hend : (BitVec.ofNat 32 s.inImg.len).toNat = s.inImg.len :=
      Nat.mod_eq_of_lt (Nat.lt_succ_of_le h.2.inBound)
    exact (h.moveTo (hle.trans hend.ge) hend.le).endOfInput
  · rw [he]; exact h.endOfInput

theorem execRecDecode_keeps_inv {s t : State} (h : Inv s) (ht : execRecDecode s = .next t) : Inv t :=
  pulseGate_keeps_inv h (.inl rfl) (fun hs hwork =>
    have hstart : Decoding s.beginRecord := ⟨hs, { h with decIdle := rfl }⟩
    (Micro.loop_ends (fun _ _ => rfl) (fun _ => decTurn_meets_inv) _ hstart
      (Nat.lt_succ_self _)).last_of_out hwork) ht

/-! ## ENC_PULSE and ENC_DRAIN -/

/-- An escape is owed only while the residual holds its unit (R173). -/
theorem overflowUnit_le_of_encNext {ver : BitVec 2} {d : Nat} {mark : Bool} {u : RecUnit}
    (h : encNext ver d mark = some u) :
    (u = .zero → ver = 0 ∧ 2048 ≤ d) ∧ (u = .ext 0xFFFFFF → ver ≠ 0 ∧ 0xFFFFFF ≤ d) := by
  unfold encNext overflowUnit extUnit at h
  split_ifs at h with hver hunit hext hpos hunit hext hpos
  · cases h; exact ⟨fun _ => ⟨hver, hunit⟩, nofun⟩
  · exact absurd hext (by tauto)
  · cases h; exact ⟨nofun, nofun⟩
  · cases h; exact ⟨nofun, fun _ => ⟨hver, hunit⟩⟩
  · cases h
    refine ⟨nofun, fun hv => ?_⟩
    have hmod : d % 16777216 = 16777215 := congrArg BitVec.toNat (RecUnit.ext.inj hv)
    omega
  · cases h; exact ⟨nofun, nofun⟩

/-- Inside `EncStep` the stream is in WRITING with a pulse pending, and the invariant holds but for the byte
count ENC keeps (R54). -/
def Encoding (s : State) : Prop :=
  s.status.state = .writing ∧ s.status.encPending = true ∧ Inv { s with encCount := 0 }

section
variable {s : State}

theorem Inv.encReport (h : Inv { s with encCount := 0 }) (c : ResultCode) : Inv (s.encReport c) :=
  (h.results _ _).finish c

theorem Encoding.encComplete (h : Encoding s) : Inv s.encComplete := by
  have hdone : Inv { ({ s with encRes := 0 } : State).setPending false with encCount := 0 } :=
    { h.2.2 with noResidual := fun _ => rfl }
  exact hdone.encReport .ok

theorem Encoding.encStop (h : Encoding s) : Inv s.encStop :=
  Inv.encReport (s := s.setPending true) { h.2.2 with noResidual := nofun } _

theorem Encoding.encSinkFailed (h : Encoding s) : Inv s.encSinkFailed :=
  Inv.encReport (s := s.enter .error) (h.2.2.enter_held (.inr h.1) (.inr rfl)) _

theorem Encoding.encOverLimit (h : Encoding s) : Inv s.encOverLimit :=
  Inv.encReport (s := s.overLimit) (h.2.2.overLimit (.inr h.1)) _

theorem Encoding.countsImage (h : Encoding s) : CountsImage s := h.2.2.countsImage_of_writing h.1

theorem Encoding.setMark (h : Encoding s) (b : Bool) : Encoding (s.setMark b) :=
  ⟨h.1, h.2.1, { h.2.2 with }⟩

/-- While the pulse is pending its residual may be anything (R53). -/
theorem Encoding.residual (h : Encoding s) (r : Word) : Encoding { s with encRes := r } :=
  ⟨h.1, h.2.1, { h.2.2 with noResidual := fun hp => by simp [h.2.1] at hp }⟩

/-- A record within the counter's limit may be appended and counted (R16, R179). -/
theorem Encoding.append (h : Encoding s) {bs : List Byte} (hmax : s.outCount.toNat + bs.length ≤ wordMax)
    (n : Nat) (c : Word) :
    Encoding { s.skipDraws n with
      outImg := s.outImg.append bs
      outCount := s.outCount + BitVec.ofNat 32 bs.length
      encCount := c } := by
  have hcount := countsImage_append h.countsImage hmax
  have h20 := (h.2.2.counted (h.2.2.writeDir h.1) (.inl h.1)).2
  have hlen : s.outCount.toNat = s.outImg.len := h.countsImage
  refine ⟨h.1, h.2.1, { h.2.2 with
    counted := fun _ _ => ⟨hcount, ?_⟩
    outCanonical := Memory.append_wf bs h.2.2.outCanonical
    outBound := ?_ }⟩
  · show 20 ≤ (s.outCount + BitVec.ofNat 32 bs.length).toNat
    rw [hcount, Memory.append_len, ← hlen]
    exact h20.trans (Nat.le_add_right _ _)
  · show (s.outImg.append bs).len ≤ wordMax
    rw [Memory.append_len, ← hlen]
    exact hmax

end

/-- Whole overflow units in the residual (R170, R171). -/
def State.unitsLeft (s : State) : Nat := s.encRes.toNat / overflowUnit s.status.version

theorem encAccount_meets_inv {u : RecUnit} {s : State} (h : Encoding s) (hu : s.unitOwed = some u) :
    (encAccount u s).Meets (fun t => Encoding t ∧ t.unitsLeft < s.unitsLeft) Inv := by
  obtain ⟨hzero, hescape⟩ := overflowUnit_le_of_encNext hu
  cases u with
  | short b => exact h.encComplete
  | zero =>
    obtain ⟨hver, hd⟩ := hzero rfl
    refine ⟨h.residual _, ?_⟩
    have hsub : (s.encRes - 2048).toNat = s.encRes.toNat - 2048 := BitVec.toNat_sub_of_le hd
    simp only [State.unitsLeft, overflowUnit, hver, if_true, hsub]
    omega
  | ext v =>
    by_cases hv : v = 0xFFFFFF
    · obtain ⟨hver, hd⟩ := hescape (congrArg _ hv)
      rw [encAccount, if_pos hv]
      refine ⟨(h.residual _).setMark true, ?_⟩
      have hsub : (s.encRes - 0xFFFFFF).toNat = s.encRes.toNat - 0xFFFFFF := BitVec.toNat_sub_of_le hd
      simp only [State.unitsLeft, overflowUnit, extUnit, State.setMark_status_version,
        State.setMark_encRes, hver, if_false, hsub]
      omega
    · rw [encAccount, if_neg hv]
      exact (h.setMark false).encComplete

theorem encUnit_meets_inv {u : RecUnit} {s : State} (h : Encoding s) (hu : s.unitOwed = some u) :
    (encUnit u s).Meets (fun t => Encoding t ∧ t.unitsLeft < s.unitsLeft) Inv := by
  obtain ⟨-, he⟩ | ⟨-, -, he⟩ | ⟨-, hmax, ⟨f, -, he⟩ | ⟨t, hw, he⟩ | ⟨t, hw, he⟩⟩ := encUnit_cases u s
  · rw [he]; exact h.encStop
  · rw [he]; exact h.encOverLimit
  · rw [he]; trivial
  · rw [he]
    obtain ⟨-, rfl⟩ | ⟨hok, -⟩ | ⟨hok, -⟩ := memWrite_cases hw
    · exact Encoding.encSinkFailed ⟨h.1, h.2.1, { h.2.2 with }⟩
    · cases hok
    · cases hok
  · rw [he]
    obtain ⟨hok, -⟩ | ⟨-, -, rfl⟩ | ⟨-, hne, -⟩ := memWrite_cases hw
    · cases hok
    · exact encAccount_meets_inv (h.append hmax 1 _) hu
    · exact absurd h.countsImage hne

theorem encTurn_meets_inv {s : State} (h : Encoding s) :
    (encTurn s).Meets (fun t => Encoding t ∧ t.unitsLeft < s.unitsLeft) Inv := by
  obtain ⟨-, he⟩ | ⟨u, hu, he⟩ := encTurn_cases s
  · rw [he]; exact h.encComplete
  · rw [he]; exact encUnit_meets_inv h hu

theorem encStep_keeps_inv {s t : State} (h : Inv s) (hs : s.status.state = .writing)
    (hp : s.status.encPending = true) (ht : encStep s = .next t) : Inv t :=
  have hstart : Encoding { s with encCount := 0 } := ⟨hs, hp, { h with encIdle := rfl }⟩
  (Micro.loop_ends (fun _ _ => rfl) (fun _ => encTurn_meets_inv) _ hstart
    (Nat.lt_succ_self _)).last_of_out ht

theorem execEncPulse_keeps_inv {s t : State} (h : Inv s) (ht : execEncPulse s = .next t) : Inv t := by
  refine pulseGate_keeps_inv h (.inr rfl) (fun hs hwork => ?_) ht
  split_ifs at hwork with hp
  · cases hwork; exact h.finish _
  · have hloaded : Inv s.loadPulse := { h with noResidual := nofun }
    exact encStep_keeps_inv hloaded hs rfl hwork

theorem execEncDrain_keeps_inv {s t : State} (h : Inv s) (ht : execEncDrain s = .next t) : Inv t := by
  refine pulseGate_keeps_inv h (.inr rfl) (fun hs hwork => ?_) ht
  split_ifs at hwork with hp
  · exact encStep_keeps_inv h hs hp hwork
  · cases hwork; exact (h.results 0 0).finish _

/-! ## The stream commands -/

/-- OPEN_READ writes the cursor whatever it finds, so the invariant need hold only with the cursor set back
(R26, R120). -/
theorem acceptHeader_inv {s : State} (h : Inv { s with inPos := 0 }) (hcfg : cfgValid s.arg0 = true)
    {hd : Header} (hfront : s.headerAtFront = some hd) : Inv (s.acceptHeader hd) := by
  obtain ⟨hlen, hver⟩ := headerAtFront_bounds hfront
  have hversion : (hd.ver.setWidth 2).toNat ≤ 2 := (Nat.mod_le _ _).trans hver
  exact { h with
    cursor := fun _ => ⟨le_rfl, hlen⟩
    cursorInside := hlen
    counted := nofun
    version := hversion
    readDir := fun _ => rfl
    writeDir := nofun
    config := hcfg }

/-- The image the host has attached meets what the invariant asks of an input image (R52, log 19). -/
theorem Inv.rewind_deliver {s : State} (h : Inv s) (hs : s.status.state = .idle ∨ s.status.state = .closed)
    (i : Instr) : Inv { s.deliver i with inPos := 0 } := by
  obtain he | ⟨-, -, -, m, hm, he⟩ := s.deliver_cases i
  · rw [he]; exact h.readFrom hs h.inCanonical h.inBound h.offeredImage
  · have himg : m.wf = true ∧ m.len ≤ wordMax := by simpa [hm] using h.offeredImage
    rw [he]; exact h.readFrom hs himg.1 himg.2 rfl

theorem execOpenRead_keeps_inv {s t : State} (h : Inv s)
    (ht : execOpenRead (s.deliver .openRead) = .next t) : Inv t := by
  obtain ⟨hidle, hclosed, rfl⟩ | ⟨-, hcfg, rfl⟩ | ⟨hs, -, -, rfl⟩ | ⟨hs, hcfg, hd, hfront, rfl⟩ :=
    execOpenRead_cases ht
  · obtain he | ⟨-, hs, -⟩ := s.deliver_cases .openRead
    · rw [he]; exact h.finish _
    · rw [State.deliver_status] at hidle hclosed
      exact absurd hs (not_or.2 ⟨hidle, hclosed⟩)
  · obtain he | ⟨-, -, hvalid, -⟩ := s.deliver_cases .openRead
    · rw [he]; exact h.finish _
    · rw [State.deliver_arg0, hvalid] at hcfg
      cases hcfg
  · rw [MayOpen, State.deliver_status] at hs
    exact (h.rewind_deliver hs _).finish _
  · rw [MayOpen, State.deliver_status] at hs
    exact acceptHeader_inv (h.rewind_deliver hs _) hcfg hfront

/-- The registers OPEN_WRITE sets fit a sink that holds its 20-byte header (R125). -/
theorem Inv.openForWriting {s : State} (h : Inv s) (hcfg : cfgValid s.arg0 = true) {m : Memory}
    (hwf : m.wf = true) (hlen : m.len = 20) : Inv ({ s with outImg := m } : State).openForWriting :=
  { h with
    noResidual := fun _ => rfl
    cursor := nofun
    counted := fun _ _ => ⟨hlen.symm, le_rfl⟩
    version := cfgVer_le_of_cfgValid hcfg
    readDir := nofun
    writeDir := fun _ => rfl
    config := hcfg
    outCanonical := hwf
    outBound := by show m.len ≤ wordMax; rw [hlen]; decide }

/-- The draws are the environment's: the invariant says nothing of them (log 1). -/
theorem Inv.skipDraws {s : State} (h : Inv s) (n : Nat) : Inv (s.skipDraws n) := { h with }

theorem execOpenWrite_keeps_inv {s t : State} (h : Inv s) (ht : execOpenWrite s = .next t) : Inv t := by
  obtain ⟨-, -, rfl⟩ | ⟨-, -, rfl⟩ | ⟨hs, -, rfl⟩ | ⟨-, hcfg, rfl⟩ := execOpenWrite_cases ht
  · exact h.finish _
  · exact h.finish _
  · have hopen : s.status.streamOpen .write = false := by
      obtain hs | hs := hs <;> simp [Status.streamOpen, hs]
    exact ((h.freshSink hopen).skipDraws 1).finish _
  · exact (h.skipDraws 1).openForWriting hcfg (Memory.ofBytes_wf _)
      ((Memory.ofBytes_len _).trans (encodeHeader_length _ _))

/-- A patch inside the sink keeps its length and its canonical form (R16). -/
theorem Inv.patch {s : State} (h : Inv s) {a : Nat} {bs : List Byte} (ha : a + bs.length ≤ s.outImg.len) :
    Inv { s with outImg := s.outImg.patch a bs } :=
  { h with
    counted := by simpa using h.counted
    outCanonical := Memory.patch_wf bs h.outCanonical ha
    outBound := by simpa using h.outBound }

theorem Inv.closeWriting {s : State} (h : Inv s) : Inv s.closeWriting :=
  { h.enter_closed with noResidual := fun _ => rfl }

theorem execClose_keeps_inv {s t : State} (h : Inv s) (ht : execClose s = .next t) : Inv t := by
  obtain ⟨-, rfl⟩ | ⟨-, -, rfl⟩ | ⟨hs, hd, ok, u, hw, rfl⟩ := execClose_cases ht
  · exact h.finish _
  · exact h.enter_closed.finish _
  · refine Inv.finish ?_ _
    obtain ⟨-, rfl⟩ | ⟨-, hend, -⟩ | ⟨-, -, hin, -, rfl⟩ := memWrite_cases hw
    · exact h.closeWriting.skipDraws 1
    · obtain ⟨hlen, h20⟩ := h.counted_of_open hs hd
      have himg : 16 = s.outImg.len := hend
      omega
    · exact (h.closeWriting.skipDraws 1).patch hin

/-! ## The scaler and RESET -/

theorem one_le_toNat_of_ne_zero {w : Word} (h : w ≠ 0) : 1 ≤ w.toNat := by bv_omega

theorem clockRate_pos {p : Params} (hp : p.wf = true) (m : BitVec 2) (ntsc : Bool) :
    1 ≤ (clockRate p m ntsc).toNat := by
  simp only [Params.wf, Bool.and_eq_true, bne_iff_ne, ne_eq] at hp
  obtain ⟨⟨⟨⟨⟨⟨-, h1⟩, h2⟩, h3⟩, h4⟩, h5⟩, h6⟩ := hp
  apply one_le_toNat_of_ne_zero
  unfold clockRate
  split_ifs <;> assumption

theorem execScaleCfg_keeps_inv {s t : State} (h : Inv s) (ht : execScaleCfg s = .next t) : Inv t := by
  unfold execScaleCfg at ht
  split_ifs at ht with hcfg hrate
  · cases ht; exact h.finish _
  · cases ht; exact h.finish _
  · cases ht
    exact { h with scaler := fun _ => ⟨one_le_toNat_of_ne_zero hrate, clockRate_pos h.params _ _⟩ }

theorem scaleBy_keeps_inv {m d : Word} {s t : State} (h : Inv s) (ht : scaleBy m d s = .next t) : Inv t := by
  obtain ⟨-, he⟩ | ⟨-, -, he⟩ | ⟨-, -, -, he⟩ | ⟨-, -, -, he⟩ := scaleBy_cases m d s
  · cases he.symm.trans ht; exact h.finish _
  · cases he.symm.trans ht
  · cases he.symm.trans ht; exact h.raiseFault.finish _
  · cases he.symm.trans ht; exact { h with }

/-- Settles O55. -/
theorem resetMeetsTheInvariant : Obligations.ResetMeetsTheInvariant where
  noResidual := fun _ => rfl
  cursor := nofun
  cursorInside := le_rfl
  counted := nofun
  version := by decide
  scaler := nofun
  readDir := nofun
  writeDir := nofun
  config := by decide
  params := by decide
  inCanonical := rfl
  outCanonical := rfl
  inBound := Nat.zero_le _
  outBound := Nat.zero_le _
  offeredImage := rfl
  decIdle := rfl
  encIdle := rfl

/-- RESET leaves the power-on state with the images and parameters there were (R140). -/
theorem execReset_keeps_inv {s t : State} (h : Inv s) (ht : execReset s = .next t) : Inv t := by
  cases ht
  exact { resetMeetsTheInvariant with
    cursor := nofun
    counted := nofun
    cursorInside := Nat.zero_le _
    params := h.params
    inCanonical := h.inCanonical
    outCanonical := h.outCanonical
    inBound := h.inBound
    outBound := h.outBound
    offeredImage := h.offeredImage }

/-! ## Every command, every access -/

theorem exec_command_keeps_inv {i : Instr} {s t : State} (h : Inv s) (hi : i.inSpace .command = true)
    (ht : exec i (s.deliver i) = .next t) : Inv t := by
  by_cases hopen : i = .openRead
  · subst hopen; exact execOpenRead_keeps_inv h ht
  · rw [State.deliver_of_ne _ hopen] at ht
    cases i with
    | openRead => exact absurd rfl hopen
    | openWrite => exact execOpenWrite_keeps_inv h ht
    | recDecode => exact execRecDecode_keeps_inv h ht
    | encPulse => exact execEncPulse_keeps_inv h ht
    | encDrain => exact execEncDrain_keeps_inv h ht
    | close => exact execClose_keeps_inv h ht
    | scaleCfg => exact execScaleCfg_keeps_inv h ht
    | scaleS2C | scaleC2S => exact scaleBy_keeps_inv h ht
    | reset => exact execReset_keeps_inv h ht
    | illegal w => cases ht; exact h.finish _
    | short | v0esc | v0chain | ext | extOvf | extZero | hdr => simp [Instr.inSpace] at hi

theorem writeWindow_keeps_inv {s : State} (h : Inv s) (offset : Nat) (w : Word) :
    Inv (writeWindow offset w s) := by
  unfold writeWindow
  split
  · exact { h with }
  · exact { h with }
  · exact { h with }
  · exact h

theorem busRequest_access_keeps_inv {op : BusOp} {s t : State} (h : Inv s)
    (ho : busRequest op s = .access (.next t)) : Inv t := by
  cases op with
  | write offset w =>
    simp only [busRequest] at ho
    split_ifs at ho
    · cases ho
    · cases ho; exact writeWindow_keeps_inv h offset w
  | read offset =>
    simp only [busRequest] at ho
    split_ifs at ho
    · cases ho
    · cases ho; exact { h with }
  | narrow offset => cases ho
  | attachInput bytes =>
    simp only [busRequest] at ho
    split_ifs at ho with hopen hlen
    · cases ho
    · cases ho
    · cases ho
      have hoffer : (some (Memory.ofBytes bytes)).all (fun m => m.wf && decide (m.len ≤ wordMax)) = true := by
        simpa [Memory.ofBytes_wf] using hlen
      exact { h with offeredImage := hoffer }
  | attachSink =>
    simp only [busRequest] at ho
    split_ifs at ho with hopen
    · cases ho
    · cases ho; exact h.freshSink (by simpa using hopen)

/-- Settles O56. -/
theorem everyStepKeepsTheInvariant : Obligations.EveryStepKeepsTheInvariant := by
  intro s t h ht
  obtain ⟨-, he⟩ | ⟨op, rest, -, ⟨w, -, he⟩ | ⟨o, ho, he⟩⟩ := step_cases s
  · cases he.symm.trans ht; exact h
  · exact exec_command_keeps_inv (h.withHost rest) (decodeCommand_inSpace w) (he.symm.trans ht)
  · cases he.symm.trans ht
    exact busRequest_access_keeps_inv (h.withHost rest) ho

end Sys2Proof.Machine
end

section
/-! A canonical image is determined by its bytes (O54; R52, log 6). -/

namespace Sys2Proof.Machine

/-- Two canonical lists of cells that read the same at every address are the same list: the first cells of both
must have the same address, because each list reads non-zero there and zero below. -/
theorem cells_eq_of_cellAt_eq {lo len : Nat} {cs cs' : List Host.Cell} (h : cellsWf lo len cs = true)
    (h' : cellsWf lo len cs' = true) (hread : ∀ a, cellAt cs a = cellAt cs' a) : cs = cs' := by
  induction cs generalizing lo cs' with
  | nil =>
    cases cs' with
    | nil => rfl
    | cons c' t' =>
      obtain ⟨k', b'⟩ := c'
      obtain ⟨-, -, hb', -⟩ := (cellsWf_cons ..).1 h'
      exact absurd (by simpa [cellAt] using (hread k').symm) hb'
  | cons c t ih =>
    obtain ⟨k, b⟩ := c
    obtain ⟨hlo, hlen, hb, ht⟩ := (cellsWf_cons ..).1 h
    cases cs' with
    | nil => exact absurd (by simpa [cellAt] using hread k) hb
    | cons c' t' =>
      obtain ⟨k', b'⟩ := c'
      obtain ⟨hlo', hlen', hb', ht'⟩ := (cellsWf_cons ..).1 h'
      have hat : cellAt ((k, b) :: t) k = b := if_pos rfl
      have hat' : cellAt ((k', b') :: t') k' = b' := if_pos rfl
      obtain hlt | rfl | hgt := Nat.lt_trichotomy k k'
      · have hbelow : cellAt ((k', b') :: t') k = 0 :=
          cellAt_below ((cellsWf_cons ..).2 ⟨le_rfl, hlen', hb', ht'⟩) hlt
        exact absurd (hat.symm.trans ((hread k).trans hbelow)) hb
      · have hbyte : b = b' := hat.symm.trans ((hread k).trans hat')
        have htail : ∀ a, cellAt t a = cellAt t' a := by
          intro a
          by_cases ha : k = a
          · subst ha
            rw [cellAt_below ht (Nat.lt_succ_self _), cellAt_below ht' (Nat.lt_succ_self _)]
          · simpa [cellAt, ha] using hread a
        rw [hbyte, ih ht ht' htail]
      · have hbelow : cellAt ((k, b) :: t) k' = 0 :=
          cellAt_below ((cellsWf_cons ..).2 ⟨le_rfl, hlen, hb, ht⟩) hgt
        exact absurd (hat'.symm.trans ((hread k').symm.trans hbelow)) hb'

/-- What a canonical image's cells read as is what the image holds, and zero from its length on. -/
theorem Memory.cellAt_eq_getD {m : Memory} (h : m.wf = true) (a : Nat) :
    cellAt m.cells a = (m.byte? a).getD 0 := by
  unfold Memory.byte?
  split_ifs with ha
  · rfl
  · exact cellAt_above h (Nat.not_lt.1 ha)

/-- Settles O54. -/
theorem canonicalImagesAreTheirBytes : Obligations.CanonicalImagesAreTheirBytes := by
  rintro ⟨len, cells⟩ ⟨len', cells'⟩ h h' rfl hbytes
  have hread : ∀ a, cellAt cells a = cellAt cells' a := fun a => by
    rw [Memory.cellAt_eq_getD h a, Memory.cellAt_eq_getD h' a, hbytes a]
  have hcells : cells = cells' := cells_eq_of_cellAt_eq h h' hread
  rw [hcells]

end Sys2Proof.Machine
end

section
/-! Which registers and flags each command writes (O59; R27, R30, R33 to R42): for each command one lemma that
names every field it may change, as a record update of the state it starts from. -/

namespace Sys2Proof.Machine

/-! ## Loops and gates that stay in a relation -/

theorem Micro.Meets.imp {under under' last last' : State → Prop} {m : Micro} (h : m.Meets under last)
    (hunder : ∀ s, under s → under' s) (hlast : ∀ s, last s → last' s) : m.Meets under' last' := by
  cases m with
  | more s => exact hunder s h
  | done s => exact hlast s h
  | stop f => trivial

theorem Micro.Meets.of_out {last : State → Prop} {m : Micro} {t : State} (h : m.Meets last last)
    (ht : m.out = .next t) : last t := by
  obtain rfl | rfl := Micro.out_next ht <;> exact h

/-- A pulse command whose work stays in a relation stays in it, if ending and cancelling do. -/
theorem pulseGate_relates {rel : State → State → Prop} {home : StreamState} {work : State → Out} {s t : State}
    (hfinish : ∀ c, rel s (s.finish c)) (hcancel : rel s s.cancel) (hwork : work s = .next t → rel s t)
    (ht : pulseGate home work s = .next t) : rel s t := by
  obtain ⟨-, he⟩ | ⟨-, he⟩ | ⟨-, -, -, he⟩ | ⟨-, -, he⟩ | ⟨-, -, he⟩ := pulseGate_cases ht
  · cases he; exact hfinish _
  · cases he; exact hfinish _
  · cases he; exact hfinish _
  · cases he; exact hcancel
  · exact hwork he.symm

/-! ## REC_DECODE -/

/-- t is s with nothing changed but what REC_DECODE may write, and `FAULT` not cleared (R27, R41). -/
def DecWrites (s t : State) : Prop :=
  ∃ code state fault r0 r1 pos dec, (s.status.fault = true → fault = true) ∧
    t = { s with
      res0 := r0, res1 := r1, inPos := pos, dec := dec
      status := { s.status with result := code, state := state, fault := fault } }

theorem DecWrites.trans {s t u : State} (h : DecWrites s t) (h' : DecWrites t u) : DecWrites s u := by
  obtain ⟨_, _, _, _, _, _, _, hfault, rfl⟩ := h
  obtain ⟨_, _, _, _, _, _, _, hfault', rfl⟩ := h'
  exact ⟨_, _, _, _, _, _, _, hfault' ∘ hfault, rfl⟩

theorem DecWrites.finish (s : State) (c : ResultCode) : DecWrites s (s.finish c) :=
  ⟨_, _, _, _, _, _, _, id, rfl⟩

theorem DecWrites.cancel (s : State) : DecWrites s s.cancel := ⟨_, _, _, _, _, _, _, id, rfl⟩

theorem DecWrites.beginRecord (s : State) : DecWrites s s.beginRecord := ⟨_, _, _, _, _, _, _, id, rfl⟩

theorem DecWrites.moveTo (s : State) (p : Word) : DecWrites s { s with inPos := p } :=
  ⟨_, _, _, _, _, _, _, id, rfl⟩

theorem DecWrites.reading (s : State) (p : Word) (d : DecWork) :
    DecWrites s { s with inPos := p, dec := d } :=
  ⟨_, _, _, _, _, _, _, id, rfl⟩

theorem DecWrites.endRecord (s : State) : DecWrites s s.endRecord := ⟨_, _, _, _, _, _, _, id, rfl⟩

theorem DecWrites.results (s : State) (r0 r1 : Word) : DecWrites s (s.results r0 r1) :=
  ⟨_, _, _, _, _, _, _, id, rfl⟩

theorem DecWrites.decoded (s : State) (cycles : Word) (form : Nat) : DecWrites s (s.decoded cycles form) :=
  ⟨_, _, _, _, _, _, _, id, rfl⟩

theorem DecWrites.endOfInput (s : State) : DecWrites s s.endOfInput := ⟨_, _, _, _, _, _, _, id, rfl⟩

theorem DecWrites.overLimit (s : State) : DecWrites s s.overLimit :=
  ⟨_, _, _, _, _, _, _, fun _ => rfl, rfl⟩

theorem DecWrites.consume (s : State) (n : Nat) : DecWrites s (s.consume n) := .moveTo s _

theorem decUnit_writes (u : RecUnit) (s : State) : (decUnit u s).Meets (DecWrites s) (DecWrites s) := by
  cases u with
  | short b =>
    unfold decUnit decShort
    split_ifs
    · exact (DecWrites.consume s 1).trans (.decoded _ _ _)
    · exact (DecWrites.consume s 1).trans (.decoded _ _ _)
    · exact (DecWrites.consume s 1).trans (.decoded _ _ _)
  | zero =>
    rw [decUnit]
    obtain ⟨-, he⟩ | ⟨-, -, he⟩ | ⟨-, -, he⟩ := decZero_cases s
    · rw [he]; exact .reading s _ _
    · rw [he]; exact ((DecWrites.consume s 1).trans (.endRecord _)).trans (.overLimit _)
    · rw [he]; exact .reading s _ _
  | ext v =>
    exact (((DecWrites.consume s 4).trans (.results _ _ _)).trans (.endRecord _)).trans (.finish _ _)

theorem decTurn_writes (s : State) : (decTurn s).Meets (DecWrites s) (DecWrites s) := by
  obtain ⟨-, he⟩ | ⟨-, u, -, he⟩ | ⟨-, -, he⟩ | ⟨-, -, he⟩ := decTurn_cases s
  · rw [he]; trivial
  · rw [he]; exact decUnit_writes u s
  · rw [he]; exact (DecWrites.moveTo s _).trans (.endOfInput _)
  · rw [he]; exact .endOfInput s

theorem execRecDecode_writes {s t : State} (ht : execRecDecode s = .next t) : DecWrites s t :=
  pulseGate_relates (.finish s) (.cancel s) (fun hwork =>
    have hturn (u : State) (hu : DecWrites s u) : (decTurn u).Meets (DecWrites s) (DecWrites s) :=
      (decTurn_writes u).imp (fun _ => hu.trans) (fun _ => hu.trans)
    (decLoop_meets hturn _ (.beginRecord s)).of_out hwork) ht

/-! ## ENC_PULSE and ENC_DRAIN -/

/-- A sink write changes `OUT_IMG` and the draws only (R16, R20). -/
theorem memWrite_writes {a : Nat} {bs : List Byte} {s t : State} {ok : Bool}
    (h : memWrite a bs s = .ok (ok, t)) :
    ∃ img draws n, t = { s with outImg := img, sinkDraws := draws, drawCount := n } := by
  obtain ⟨-, rfl⟩ | ⟨-, -, rfl⟩ | ⟨-, -, -, -, rfl⟩ := memWrite_cases h
  · exact ⟨_, _, _, rfl⟩
  · exact ⟨_, _, _, rfl⟩
  · exact ⟨_, _, _, rfl⟩

/-- t is s with nothing changed but what ENC_PULSE and ENC_DRAIN may write, and `FAULT` not cleared (R27,
R41). -/
def EncWrites (s t : State) : Prop :=
  ∃ code state pending mark fault r0 r1 res count n img draws drawn,
    (s.status.fault = true → fault = true) ∧
    t = { s with
      res0 := r0, res1 := r1, encRes := res, outCount := count, encCount := n, outImg := img
      sinkDraws := draws, drawCount := drawn
      status := { s.status with
        result := code, state := state, encPending := pending, ovfMark := mark, fault := fault } }

theorem EncWrites.trans {s t u : State} (h : EncWrites s t) (h' : EncWrites t u) : EncWrites s u := by
  obtain ⟨_, _, _, _, _, _, _, _, _, _, _, _, _, hfault, rfl⟩ := h
  obtain ⟨_, _, _, _, _, _, _, _, _, _, _, _, _, hfault', rfl⟩ := h'
  exact ⟨_, _, _, _, _, _, _, _, _, _, _, _, _, hfault' ∘ hfault, rfl⟩

theorem EncWrites.finish (s : State) (c : ResultCode) : EncWrites s (s.finish c) :=
  ⟨_, _, _, _, _, _, _, _, _, _, _, _, _, id, rfl⟩

theorem EncWrites.cancel (s : State) : EncWrites s s.cancel :=
  ⟨_, _, _, _, _, _, _, _, _, _, _, _, _, id, rfl⟩

theorem EncWrites.results (s : State) (r0 r1 : Word) : EncWrites s (s.results r0 r1) :=
  ⟨_, _, _, _, _, _, _, _, _, _, _, _, _, id, rfl⟩

theorem EncWrites.loadPulse (s : State) : EncWrites s s.loadPulse :=
  ⟨_, _, _, _, _, _, _, _, _, _, _, _, _, id, rfl⟩

theorem EncWrites.setCounts (s : State) (count n : Word) :
    EncWrites s { s with outCount := count, encCount := n } :=
  ⟨_, _, _, _, _, _, _, _, _, _, _, _, _, id, rfl⟩

theorem EncWrites.of_memWrite {a : Nat} {bs : List Byte} {s t : State} {ok : Bool}
    (h : memWrite a bs s = .ok (ok, t)) : EncWrites s t := by
  obtain ⟨img, draws, drawn, rfl⟩ := memWrite_writes h
  exact ⟨_, _, _, _, _, _, _, _, _, _, _, _, _, id, rfl⟩

theorem EncWrites.encComplete (s : State) : EncWrites s s.encComplete :=
  ⟨_, _, _, _, _, _, _, _, _, _, _, _, _, id, rfl⟩

theorem EncWrites.encStop (s : State) : EncWrites s s.encStop :=
  ⟨_, _, _, _, _, _, _, _, _, _, _, _, _, id, rfl⟩

theorem EncWrites.encSinkFailed (s : State) : EncWrites s s.encSinkFailed :=
  ⟨_, _, _, _, _, _, _, _, _, _, _, _, _, id, rfl⟩

theorem EncWrites.encOverLimit (s : State) : EncWrites s s.encOverLimit :=
  ⟨_, _, _, _, _, _, _, _, _, _, _, _, _, fun _ => rfl, rfl⟩

theorem encAccount_writes (u : RecUnit) (s : State) : (encAccount u s).Meets (EncWrites s) (EncWrites s) := by
  cases u with
  | short b => exact .encComplete s
  | zero => exact ⟨_, _, _, _, _, _, _, _, _, _, _, _, _, id, rfl⟩
  | ext v =>
    rw [encAccount]
    split_ifs
    · exact ⟨_, _, _, _, _, _, _, _, _, _, _, _, _, id, rfl⟩
    · exact ⟨_, _, _, _, _, _, _, _, _, _, _, _, _, id, rfl⟩

theorem encUnit_writes (u : RecUnit) (s : State) : (encUnit u s).Meets (EncWrites s) (EncWrites s) := by
  obtain ⟨-, he⟩ | ⟨-, -, he⟩ | ⟨-, -, ⟨f, -, he⟩ | ⟨t, hw, he⟩ | ⟨t, hw, he⟩⟩ := encUnit_cases u s
  · rw [he]; exact .encStop s
  · rw [he]; exact .encOverLimit s
  · rw [he]; trivial
  · rw [he]; exact (EncWrites.of_memWrite hw).trans (.encSinkFailed t)
  · rw [he]
    have hcounted (count n : Word) := (EncWrites.of_memWrite hw).trans (.setCounts t count n)
    exact (encAccount_writes u _).imp (fun _ => (hcounted _ _).trans) (fun _ => (hcounted _ _).trans)

theorem encTurn_writes (s : State) : (encTurn s).Meets (EncWrites s) (EncWrites s) := by
  obtain ⟨-, he⟩ | ⟨u, -, he⟩ := encTurn_cases s
  · rw [he]; exact .encComplete s
  · rw [he]; exact encUnit_writes u s

theorem encStep_writes {s t : State} (ht : encStep s = .next t) : EncWrites s t :=
  have hturn (u : State) (hu : EncWrites s u) : (encTurn u).Meets (EncWrites s) (EncWrites s) :=
    (encTurn_writes u).imp (fun _ => hu.trans) (fun _ => hu.trans)
  (encLoop_meets hturn _ (.setCounts s s.outCount 0)).of_out ht

theorem execEncPulse_writes {s t : State} (ht : execEncPulse s = .next t) : EncWrites s t := by
  refine pulseGate_relates (.finish s) (.cancel s) (fun hwork => ?_) ht
  split_ifs at hwork
  · cases hwork; exact .finish s _
  · exact (EncWrites.loadPulse s).trans (encStep_writes hwork)

theorem execEncDrain_writes {s t : State} (ht : execEncDrain s = .next t) : EncWrites s t := by
  refine pulseGate_relates (.finish s) (.cancel s) (fun hwork => ?_) ht
  split_ifs at hwork
  · exact encStep_writes hwork
  · cases hwork; exact (EncWrites.results s 0 0).trans (.finish _ _)

/-! ## The stream commands and the scaler -/

theorem execOpenRead_writes {s t : State} (ht : execOpenRead s = .next t) :
    ∃ code state dir v2 family version cfg pos r0 r1, t = { s with
      streamCfg := cfg, inPos := pos, res0 := r0, res1 := r1
      status := { s.status with
        result := code, state := state, dir := dir, hdrV2 := v2, hdrFamily := family, version := version } } := by
  obtain ⟨-, -, rfl⟩ | ⟨-, -, rfl⟩ | ⟨-, -, -, rfl⟩ | ⟨-, -, hd, -, rfl⟩ := execOpenRead_cases ht
  · exact ⟨_, _, _, _, _, _, _, _, _, _, rfl⟩
  · exact ⟨_, _, _, _, _, _, _, _, _, _, rfl⟩
  · exact ⟨_, _, _, _, _, _, _, _, _, _, rfl⟩
  · exact ⟨_, _, _, _, _, _, _, _, _, _, rfl⟩

theorem execOpenWrite_writes {s t : State} (ht : execOpenWrite s = .next t) :
    ∃ code state dir pending mark discarded version cfg res count img draws drawn, t = { s with
      streamCfg := cfg, encRes := res, outCount := count, outImg := img, sinkDraws := draws, drawCount := drawn
      status := { s.status with
        result := code, state := state, dir := dir, encPending := pending, ovfMark := mark
        discarded := discarded, version := version } } := by
  obtain ⟨-, -, rfl⟩ | ⟨-, -, rfl⟩ | ⟨-, -, rfl⟩ | ⟨-, -, rfl⟩ := execOpenWrite_cases ht
  · exact ⟨_, _, _, _, _, _, _, _, _, _, _, _, _, rfl⟩
  · exact ⟨_, _, _, _, _, _, _, _, _, _, _, _, _, rfl⟩
  · exact ⟨_, _, _, _, _, _, _, _, _, _, _, _, _, rfl⟩
  · exact ⟨_, _, _, _, _, _, _, _, _, _, _, _, _, rfl⟩

theorem execClose_writes {s t : State} (ht : execClose s = .next t) :
    ∃ code state pending discarded res r0 img draws drawn, t = { s with
      encRes := res, res0 := r0, outImg := img, sinkDraws := draws, drawCount := drawn
      status := { s.status with
        result := code, state := state, encPending := pending, discarded := discarded } } := by
  obtain ⟨-, rfl⟩ | ⟨-, -, rfl⟩ | ⟨-, -, ok, u, hw, rfl⟩ := execClose_cases ht
  · exact ⟨_, _, _, _, _, _, _, _, _, rfl⟩
  · exact ⟨_, _, _, _, _, _, _, _, _, rfl⟩
  · obtain ⟨img, draws, drawn, rfl⟩ := memWrite_writes hw
    exact ⟨_, _, _, _, _, _, _, _, _, rfl⟩

theorem execScaleCfg_writes {s t : State} (ht : execScaleCfg s = .next t) :
    ∃ code ready sel rate clock, t = { s with
      scaleSel := sel, scaleRate := rate, scaleClock := clock
      status := { s.status with result := code, scalerReady := ready } } := by
  unfold execScaleCfg at ht
  split_ifs at ht
  · cases ht; exact ⟨_, _, _, _, _, rfl⟩
  · cases ht; exact ⟨_, _, _, _, _, rfl⟩
  · cases ht; exact ⟨_, _, _, _, _, rfl⟩

theorem scaleBy_writes {m d : Word} {s t : State} (ht : scaleBy m d s = .next t) :
    ∃ code fault r0, (s.status.fault = true → fault = true) ∧
      t = { s with res0 := r0, status := { s.status with result := code, fault := fault } } := by
  obtain ⟨-, he⟩ | ⟨-, -, he⟩ | ⟨-, -, -, he⟩ | ⟨-, -, -, he⟩ := scaleBy_cases m d s
  · cases he.symm.trans ht; exact ⟨_, _, _, id, rfl⟩
  · cases he.symm.trans ht
  · cases he.symm.trans ht; exact ⟨_, _, _, fun _ => rfl, rfl⟩
  · cases he.symm.trans ht; exact ⟨_, _, _, id, rfl⟩

/-- Settles O59. Each case compares the fields its command may write with the register map's list. -/
theorem onlyTheNamedCommandsWriteEachRegister : Obligations.OnlyTheNamedCommandsWriteEachRegister := by
  intro s t i hi ht
  cases i with
  | openRead => obtain ⟨_, _, _, _, _, _, _, _, _, _, rfl⟩ := execOpenRead_writes ht; simp
  | openWrite => obtain ⟨_, _, _, _, _, _, _, _, _, _, _, _, _, rfl⟩ := execOpenWrite_writes ht; simp
  | recDecode => obtain ⟨_, _, _, _, _, _, _, hfault, rfl⟩ := execRecDecode_writes ht; simpa using hfault
  | encPulse =>
    obtain ⟨_, _, _, _, _, _, _, _, _, _, _, _, _, hfault, rfl⟩ := execEncPulse_writes ht; simpa using hfault
  | encDrain =>
    obtain ⟨_, _, _, _, _, _, _, _, _, _, _, _, _, hfault, rfl⟩ := execEncDrain_writes ht; simpa using hfault
  | close => obtain ⟨_, _, _, _, _, _, _, _, _, rfl⟩ := execClose_writes ht; simp
  | scaleCfg => obtain ⟨_, _, _, _, _, rfl⟩ := execScaleCfg_writes ht; simp
  | scaleS2C | scaleC2S => obtain ⟨_, _, _, hfault, rfl⟩ := scaleBy_writes ht; simpa using hfault
  | reset => cases ht; simp
  | illegal w => cases ht; simp
  | short | v0esc | v0chain | ext | extOvf | extZero | hdr => simp [Instr.inSpace] at hi

end Sys2Proof.Machine
end

section
/-! One access at a time (O5, O7, O8, O9), the fields of `STATUS` (O10), and what reset clears (O11, O12). -/

namespace Sys2Proof.Machine

/-! ## Taking the next access -/

section
variable {s : State} {op : BusOp} {rest : List BusOp}

theorem step_of_access {o : Out} (h : s.host = op :: rest)
    (ho : busRequest op { s with host := rest } = .access o) : step s = o := by
  simp only [step, fetch, h, ho]

theorem step_of_command {i : Instr} {t : State} (h : s.host = op :: rest)
    (ho : busRequest op { s with host := rest } = .command i t) : step s = exec i t := by
  simp only [step, fetch, h, ho]

theorem step_write_cmd {w : Word} (h : s.host = .write 0 w :: rest) :
    step s = exec (decodeCommand w) ({ s with host := rest }.deliver (decodeCommand w)) :=
  step_of_command h rfl

theorem step_read {o : Nat} (ho : windowOffset o = true) (h : s.host = .read o :: rest) :
    step s = .next { s with host := rest, rdata := readWindow s o } := by
  refine step_of_access h ?_
  simp only [busRequest, ho]
  rfl

theorem step_write {o : Nat} {w : Word} (ho : windowOffset o = true) (hcmd : o ≠ 0)
    (h : s.host = .write o w :: rest) : step s = .next (writeWindow o w { s with host := rest }) :=
  step_of_access h (by simp [busRequest, ho, hcmd])

end

/-- The offsets R55 leaves undefined. -/
theorem windowOffset_eq_false {o : Nat} (h : o % 4 ≠ 0 ∨ 0x3C < o) : windowOffset o = false := by
  simp only [windowOffset, Bool.and_eq_false_iff, beq_eq_false_iff_ne, decide_eq_false_iff_not]
  omega

/-- A stream that is open, or held in INTERRUPTED or ERROR, has a direction (R33, R34). -/
theorem Status.streamOpen_iff (t : Status) (d : Direction) : t.streamOpen d = true ↔
    (t.state = .reading ∧ d = .read) ∨ (t.state = .writing ∧ d = .write) ∨
      ((t.state = .interrupted ∨ t.state = .error) ∧ t.dir = d) := by
  unfold Status.streamOpen
  cases t.state <;> simp

/-! ## The configuration word -/

/-- `CfgValid(w)` over the word's bits and over its value (R44, R45). -/
theorem cfgValid_iff (w : Word) : cfgValid w = true ↔ CfgLegal w := by
  have hver : (cfgVer w).toNat = w.toNat % 4 := by
    simp [cfgVer, BitVec.extractLsb'_toNat]
  have hmach : (cfgMach w).toNat = w.toNat / 4 % 4 := by
    simp [cfgMach, BitVec.extractLsb'_toNat, Nat.shiftRight_eq_div_pow]
  have hrest : w.extractLsb' 6 26 = 0 ↔ w.toNat < 64 := by
    have hw : w.toNat < 2 ^ 32 := w.isLt
    rw [← BitVec.toNat_inj, BitVec.extractLsb'_toNat, Nat.shiftRight_eq_div_pow]
    show w.toNat / 2 ^ 6 % 2 ^ 26 = 0 ↔ w.toNat < 64
    omega
  simp only [cfgValid, CfgLegal, Bool.and_eq_true, decide_eq_true_eq, beq_iff_eq, hver, hmach, hrest, and_assoc]

/-- An attached image comes in as `IN_IMG` where OPEN_READ passes its checks (R120, log 19). -/
theorem State.deliver_eq (s : State) (i : Instr) : s.deliver i =
    if i = .openRead ∧ MayOpen s ∧ cfgValid s.arg0 = true then
      { s with inImg := s.offered.getD s.inImg, offered := none }
    else s := by
  unfold State.deliver
  cases ho : s.offered with
  | none =>
    obtain ⟨⟩ := s
    cases ho
    exact (ite_self _).symm
  | some m => rfl

/-- Settles O5. -/
theorem stepRunsTheDecodedCommand : Obligations.StepRunsTheDecodedCommand := by
  intro s w rest
  refine ⟨fun h => ?_, fun h => step_read rfl h⟩
  rw [step_write_cmd h, State.deliver_eq]
  simp only [cfgValid_iff]
  split_ifs <;> rfl

theorem zeroExtend_ofBool (b : Bool) : (BitVec.ofBool b).zeroExtend 32 = if b then 1 else 0 := by
  cases b <;> rfl

theorem getLsbD_zero_eq_decide (w : Word) : w.getLsbD 0 = decide (w.toNat % 2 = 1) := by
  simp [BitVec.getLsbD, Nat.testBit_zero]

/-- Settles O7. -/
theorem windowFollowsTheRegisterMap : Obligations.WindowFollowsTheRegisterMap := by
  refine ⟨fun s rest p hp h => ?_, fun s w rest => ⟨fun h => step_write rfl (by decide) h,
    fun h => step_write rfl (by decide) h, fun h => ?_, fun o ho h => ?_⟩, fun s h => ?_⟩
  · have hmap : windowOffset p.1 = true ∧ readWindow s p.1 = p.2 := by
      rw [← zeroExtend_ofBool s.term] at hp
      fin_cases hp
      all_goals
        dsimp only
        exact ⟨rfl, rfl⟩
    rw [step_read hmap.1 h, hmap.2]
  · rw [step_write rfl (by decide) h, ← getLsbD_zero_eq_decide]
    rfl
  · have hmap : windowOffset o = true ∧ o ≠ 0 ∧ ∀ t, writeWindow o w t = t := by
      fin_cases ho
      all_goals exact ⟨rfl, by decide, fun _ => rfl⟩
    rw [step_write hmap.1 hmap.2.1 h, hmap.2.2]
  · simp only [step, fetch, h]

/-- Settles O8. -/
theorem undefinedAccessesAreRefused : Obligations.UndefinedAccessesAreRefused := by
  intro s o w rest
  refine ⟨fun ho h => step_of_access h ?_, fun ho h => step_of_access h ?_, fun h => step_of_access h rfl⟩
  · simp [busRequest, windowOffset_eq_false ho]
  · simp [busRequest, windowOffset_eq_false ho]

/-- Settles O9. -/
theorem attachmentsRespectHostDuties : Obligations.AttachmentsRespectHostDuties := by
  intro s bs rest
  refine ⟨fun h => step_of_access h ?_, fun h => step_of_access h ?_⟩
  · have hopen : s.status.streamOpen .read = true ↔ s.status.state = .reading ∨
        ((s.status.state = .interrupted ∨ s.status.state = .error) ∧ s.status.dir = .read) := by
      simp [Status.streamOpen_iff]
    simp only [busRequest, hopen]
    split_ifs <;> rfl
  · have hopen : s.status.streamOpen .write = true ↔ s.status.state = .writing ∨
        ((s.status.state = .interrupted ∨ s.status.state = .error) ∧ s.status.dir = .write) := by
      simp [Status.streamOpen_iff]
    simp only [busRequest, hopen]
    split_ifs <;> rfl

/-! ## `STATUS` -/

/-- The bits of `STATUS`, field by field from the low end, each field with its width (R31). -/
theorem Status.toWord_getLsbD (t : Status) (i : Nat) : t.toWord.getLsbD i =
    if i < 4 then t.result.code.getLsbD i
    else if i - 4 < 3 then t.state.code.getLsbD (i - 4)
    else if i - 7 < 1 then t.dir.bit.getLsbD (i - 7)
    else if i - 8 < 1 then (flagBit t.encPending).getLsbD (i - 8)
    else if i - 9 < 1 then (flagBit t.ovfMark).getLsbD (i - 9)
    else if i - 10 < 1 then (flagBit t.scalerReady).getLsbD (i - 10)
    else if i - 11 < 1 then (flagBit t.hdrV2).getLsbD (i - 11)
    else if i - 12 < 1 then (flagBit t.hdrFamily).getLsbD (i - 12)
    else if i - 13 < 1 then (flagBit t.discarded).getLsbD (i - 13)
    else if i - 14 < 1 then (flagBit t.fault).getLsbD (i - 14)
    else if i - 15 < 1 then false
    else if i - 16 < 2 then t.version.getLsbD (i - 16)
    else false := by
  unfold Status.toWord
  iterate 12 rw [BitVec.getLsbD_append]
  simp only [Nat.sub_sub, Nat.reduceAdd, BitVec.ofNat_eq_ofNat, BitVec.getLsbD_zero]

theorem Status.extractLsb'_result (t : Status) : t.toWord.extractLsb' 0 4 = t.result.code := by
  refine BitVec.eq_of_getLsbD_eq fun i hi => ?_
  simp (disch := omega) only [BitVec.getLsbD_extractLsb', Status.toWord_getLsbD, hi, decide_true,
    Bool.true_and, Nat.zero_add, if_true]

theorem Status.extractLsb'_state (t : Status) : t.toWord.extractLsb' 4 3 = t.state.code := by
  refine BitVec.eq_of_getLsbD_eq fun i hi => ?_
  simp (disch := omega) only [BitVec.getLsbD_extractLsb', Status.toWord_getLsbD, hi, decide_true,
    Bool.true_and, Nat.add_sub_cancel_left, if_true, if_neg]

theorem Status.extractLsb'_version (t : Status) : t.toWord.extractLsb' 16 2 = t.version := by
  refine BitVec.eq_of_getLsbD_eq fun i hi => ?_
  simp (disch := omega) only [BitVec.getLsbD_extractLsb', Status.toWord_getLsbD, hi, decide_true,
    Bool.true_and, Nat.add_sub_cancel_left, if_true, if_neg]

theorem Status.extractLsb'_reserved (t : Status) : t.toWord.extractLsb' 18 14 = 0 := by
  refine BitVec.eq_of_getLsbD_eq fun i hi => ?_
  simp (disch := omega) only [BitVec.getLsbD_extractLsb', Status.toWord_getLsbD, hi, decide_true,
    Bool.true_and, BitVec.ofNat_eq_ofNat, BitVec.getLsbD_zero, if_neg]

@[simp] theorem Direction.bit_getElem_zero (d : Direction) : d.bit[0] = decide (d = .write) := by
  cases d <;> rfl

@[simp] theorem flagBit_getElem_zero (b : Bool) : (flagBit b)[0] = b := by cases b <;> rfl

/-- Settles O10. -/
theorem statusFieldsHaveTheirPlaces : Obligations.StatusFieldsHaveTheirPlaces := by
  refine ⟨fun t => ⟨t.extractLsb'_result, t.extractLsb'_state, ?_, ?_, ?_, ?_, ?_, ?_, ?_, ?_, ?_,
    t.extractLsb'_version, t.extractLsb'_reserved⟩, by decide, by decide⟩
  all_goals rw [Status.toWord_getLsbD]; simp

/-! ## Reset -/

theorem Status.toWord_reset : Status.reset.toWord = 0 := by decide

/-- The state RESET leaves reads 0 at every offset, whatever the images and the environment (R58, R140). -/
theorem readWindow_of_cleared (s : State) (o : Nat) :
    readWindow { State.reset with
      inImg := s.inImg, offered := s.offered, outImg := s.outImg, par := s.par, host := s.host
      rdata := s.rdata, sinkDraws := s.sinkDraws, drawCount := s.drawCount } o = 0 := by
  unfold readWindow
  split
  case h_5 => exact Status.toWord_reset
  all_goals rfl

/-- Settles O11. -/
theorem everyRegisterReadsZeroAfterReset : Obligations.EveryRegisterReadsZeroAfterReset :=
  fun o _ => readWindow_of_cleared State.reset o

/-- Settles O12. -/
theorem resetClearsEveryRegisterAndKeepsTheImages :
    Obligations.ResetClearsEveryRegisterAndKeepsTheImages := fun s =>
  ⟨_, rfl, fun o _ => readWindow_of_cleared s o, rfl, rfl, rfl, rfl, rfl, rfl, rfl, rfl, rfl, rfl, rfl⟩

end Sys2Proof.Machine
end

section
/-! Reading a code back (O1, O3, O4): what each part of the decoder accepts is what the encoder writes for it,
so the code read is the encoder's (`30_encoding.md` R80 to R90, R97). -/

namespace Sys2Proof

/-! ## Command words -/

theorem decodeCommand_eq_illegal_iff (w : Word) :
    decodeCommand w = .illegal w ↔ w.toNat = 0 ∨ 10 < w.toNat := by
  refine ⟨fun h => ?_, fun h => decodeCommand_illegal (by simpa [Instr.wf] using h)⟩
  unfold decodeCommand at h
  split at h
  case h_11 => simp only [imp_false] at *; omega
  all_goals cases h

/-- The fields of a command word over its value: `MBZ` is bits 31:8 and `OPC` bits 7:0 (R96). -/
theorem command_fields (w : Word) :
    (w.extractLsb' 8 24 = 0 ↔ w.toNat < 256) ∧ (w.extractLsb' 0 8).toNat = w.toNat % 256 := by
  have hw : w.toNat < 4294967296 := w.isLt
  rw [← BitVec.toNat_inj, BitVec.extractLsb'_toNat, BitVec.extractLsb'_toNat, Nat.shiftRight_eq_div_pow,
    Nat.shiftRight_zero]
  refine ⟨?_, rfl⟩
  show w.toNat / 256 % 16777216 = 0 ↔ w.toNat < 256
  omega

/-- What a command word decodes to is well-formed, and encodes to that word (R97, R98). -/
theorem encode_of_decodeCommand (p : Params) {w : Word} {i : Instr} (h : decodeCommand w = i) :
    i.wf = true ∧ encode p i = .word w := by
  subst h
  unfold decodeCommand
  split
  case h_11 =>
    refine ⟨?_, rfl⟩
    simp only [imp_false] at *
    simp only [Instr.wf, Bool.or_eq_true, beq_iff_eq, decide_eq_true_eq]
    omega
  all_goals
    next hw => exact ⟨rfl, congrArg Code.word (BitVec.eq_of_toNat_eq hw.symm)⟩

/-- Settles O1: a row's word is the encoder's, so it selects its command; the converse is reading the code back. -/
theorem opcodeMapSelectsCommands : Obligations.OpcodeMapSelectsCommands := by
  intro w
  obtain ⟨hmbz, hopc⟩ := command_fields w
  rw [ne_eq, hmbz, hopc]
  refine ⟨fun p hp => ?_, ?_⟩
  · have hrow : p.1 ≤ 10 ∧ encode Params.default p.2 = .word (BitVec.ofNat 32 p.1) ∧
        decodeCommand (BitVec.ofNat 32 p.1) = p.2 := by
      fin_cases hp
      all_goals exact ⟨by decide, rfl, rfl⟩
    obtain ⟨hle, hcode, hdec⟩ := hrow
    have hvalue : (w.toNat < 256 ∧ w.toNat % 256 = p.1) ↔ w.toNat = p.1 := by omega
    rw [hvalue]
    constructor
    · intro hw
      rw [← hdec, ← hw, BitVec.ofNat_toNat, BitVec.setWidth_eq]
    · intro hw
      have hword := hcode.symm.trans (encode_of_decodeCommand Params.default hw).2
      rw [← Code.word.inj hword, BitVec.toNat_ofNat]
      exact Nat.mod_eq_of_lt (by omega)
  · rw [decodeCommand_eq_illegal_iff]
    omega

/-- Settles O4: each sample evaluates. -/
theorem sampleCodesDecode : Obligations.SampleCodesDecode :=
  ⟨rfl, rfl, rfl, rfl, rfl, rfl, rfl, rfl⟩

/-! ## The header -/

theorem magicBytes_of_familyOf {p : Params} {magic : List Byte} {f : Family}
    (h : familyOf p magic = some f) : magicBytes p f = magic := by
  unfold familyOf at h
  split_ifs at h with hA hB
  · cases h; exact hA.symm
  · cases h; exact hB.symm

theorem leBytes_wordOfLE (b0 b1 b2 b3 : Byte) :
    leBytes 4 (wordOfLE [b0, b1, b2, b3]).toNat = [b0, b1, b2, b3] := by
  have hlt : fromLE [b0, b1, b2, b3] < 2 ^ 32 :=
    (fromLE_lt [b0, b1, b2, b3]).trans_eq (by simp)
  rw [wordOfLE, BitVec.toNat_ofNat, Nat.mod_eq_of_lt hlt]
  exact leBytes_fromLE [b0, b1, b2, b3]

theorem leBytes_value24OfLE (b1 b2 b3 : Byte) :
    leBytes 3 (value24OfLE [b1, b2, b3]).toNat = [b1, b2, b3] := by
  have hlt : fromLE [b1, b2, b3] < 2 ^ 24 := (fromLE_lt [b1, b2, b3]).trans_eq (by simp)
  rw [value24OfLE, BitVec.toNat_ofNat, Nat.mod_eq_of_lt hlt]
  exact leBytes_fromLE [b1, b2, b3]

theorem encodeHeader_of_decodeHeader {p : Params} {bs rest : List Byte} {h : Header}
    (hd : decodeHeader p bs = .ok (h, rest)) : bs = encodeHeader p h ++ rest := by
  unfold decodeHeader at hd
  split_ifs at hd
  split at hd
  · cases hd
  next f ver mach vid rsv l0 l1 l2 l3 tail hfam hdrop =>
    split_ifs at hd
    cases hd
    conv_lhs => rw [← List.take_append_drop 12 bs, hdrop, ← magicBytes_of_familyOf hfam]
    simp [encodeHeader, leBytes_wordOfLE]
  · cases hd

/-! ## Record units -/

/-- A decoded unit is one the version has, and what was read is its bytes and the rest (R83, R90). -/
theorem decodeUnit_eq_ok_iff {ver : BitVec 2} {bs rest : List Byte} {u : RecUnit} :
    decodeUnit ver bs = .ok (u, rest) ↔ u.Fits ver ∧ bs = encodeUnit u ++ rest := by
  refine ⟨fun h => ?_, fun ⟨hfits, hbs⟩ => hbs ▸ decodeUnit_encodeUnit rest hfits⟩
  unfold decodeUnit at h
  split at h
  next => cases h
  next b t =>
    split_ifs at h with hb hver
    · cases h; exact ⟨hb, rfl⟩
    · cases h; exact ⟨hver, by rw [not_not.1 hb]; rfl⟩
    · split at h
      next b1 b2 b3 tail =>
        cases h
        exact ⟨hver, by rw [not_not.1 hb, encodeUnit, leBytes_value24OfLE]; rfl⟩
      next => cases h

/-- The row of an extended unit: the values 0xFFFFFF and 0 have rows of their own (R87 to R89). -/
theorem RecUnit.toInstr_ext_cases (v : Value24) :
    (v = 0xFFFFFF ∧ (RecUnit.ext v).toInstr = .extOvf) ∨
    (v = 0 ∧ (RecUnit.ext v).toInstr = .extZero) ∨
    (v ≠ 0 ∧ v ≠ 0xFFFFFF ∧ (RecUnit.ext v).toInstr = .ext v) := by
  by_cases hovf : v = 0xFFFFFF
  · exact .inl ⟨hovf, if_pos hovf⟩
  · by_cases hzero : v = 0
    · exact .inr (.inl ⟨hzero, (if_neg hovf).trans (if_pos hzero)⟩)
    · exact .inr (.inr ⟨hzero, hovf, (if_neg hovf).trans (if_neg hzero)⟩)

@[simp] theorem encode_toInstr (p : Params) (u : RecUnit) : encode p u.toInstr = .bytes (encodeUnit u) := by
  cases u with
  | short b => rfl
  | zero => rfl
  | ext v =>
    obtain ⟨rfl, hi⟩ | ⟨rfl, hi⟩ | ⟨-, -, hi⟩ := RecUnit.toInstr_ext_cases v
    all_goals rw [hi]; rfl

/-- A unit has a form of the version where its row is well-formed and in the version's unit space (R83). -/
theorem RecUnit.fits_iff (u : RecUnit) (ver : BitVec 2) :
    u.Fits ver ↔ u.toInstr.wf = true ∧ u.toInstr.inSpace (.unit ver) = true := by
  cases u with
  | short b => simp [RecUnit.Fits, RecUnit.toInstr, Instr.wf, Instr.inSpace]
  | zero => simp [RecUnit.Fits, RecUnit.toInstr, Instr.wf, Instr.inSpace]
  | ext v =>
    obtain ⟨-, hi⟩ | ⟨-, hi⟩ | ⟨hzero, hovf, hi⟩ := RecUnit.toInstr_ext_cases v
    · simp [RecUnit.Fits, hi, Instr.wf, Instr.inSpace]
    · simp [RecUnit.Fits, hi, Instr.wf, Instr.inSpace]
    · simpa [RecUnit.Fits, hi, Instr.wf, Instr.inSpace] using fun _ => ⟨hzero, hovf⟩

/-! ## Whole records -/

/-- A decoded chain is the zero bytes read before, more zero bytes, and the closing byte (R86). -/
theorem chain_of_decodeChain {m : Nat} {bs rest : List Byte} {i : Instr}
    (h : decodeChain m bs = .ok (i, rest)) :
    ∃ n b, b ≠ 0 ∧ i = .v0chain (m + n) b ∧ bs = List.replicate n 0 ++ b :: rest := by
  induction bs generalizing m with
  | nil => cases h
  | cons b t ih =>
    by_cases hb : b = 0
    · subst hb
      obtain ⟨n, c, hc, hi, ht⟩ := ih h
      exact ⟨n + 1, c, hc, by rw [hi, Nat.add_assoc, Nat.add_comm 1 n], by rw [ht]; rfl⟩
    · rw [decodeChain_closing m t hb] at h
      cases h
      exact ⟨0, b, hb, rfl, rfl⟩

/-- A decoded record is a unit that is no escape, or in version 0 a chain (R83, R90). -/
theorem decodeRecord_cases {ver : BitVec 2} {bs rest : List Byte} {i : Instr}
    (h : decodeRecord ver bs = .ok (i, rest)) :
    (∃ u, u ≠ .zero ∧ u.Fits ver ∧ i = u.toInstr ∧ bs = encodeUnit u ++ rest) ∨
    (ver = 0 ∧ ∃ n b, b ≠ 0 ∧ i = .v0chain (n + 1) b ∧ bs = List.replicate (n + 1) 0 ++ b :: rest) := by
  unfold decodeRecord at h
  split at h
  next => cases h
  next t hu =>
    obtain ⟨hver, rfl⟩ := decodeUnit_eq_ok_iff.1 hu
    obtain ⟨n, b, hb, hi, rfl⟩ := chain_of_decodeChain h
    exact .inr ⟨hver, n, b, hb, by rw [hi, Nat.add_comm], rfl⟩
  next u t hzero hu =>
    cases h
    obtain ⟨hfits, hbs⟩ := decodeUnit_eq_ok_iff.1 hu
    exact .inl ⟨u, hzero, hfits, rfl, hbs⟩

theorem inSpace_record_of_unit {u : RecUnit} {ver : BitVec 2} (hu : u ≠ .zero)
    (h : u.toInstr.inSpace (.unit ver) = true) : u.toInstr.inSpace (.record ver) = true := by
  cases u with
  | short b => rfl
  | zero => exact absurd rfl hu
  | ext v =>
    obtain ⟨-, hi⟩ | ⟨-, hi⟩ | ⟨-, -, hi⟩ := RecUnit.toInstr_ext_cases v
    all_goals rw [hi] at h ⊢; exact h

/-- Settles O3, space by space. -/
theorem encodeOfDecodeIsTheCode : Obligations.EncodeOfDecodeIsTheCode := by
  intro p sp c i rest h
  unfold decode at h
  split at h
  next w =>
    cases h
    obtain ⟨hwf, hcode⟩ := encode_of_decodeCommand p (w := w) rfl
    exact ⟨hwf, decodeCommand_inSpace w, by rw [hcode]; rfl⟩
  next bs =>
    split at h
    next hd tail hdec =>
      cases h
      exact ⟨decide_eq_true (Machine.decodeHeader_bounds hdec).2, rfl,
        congrArg Code.bytes (encodeHeader_of_decodeHeader hdec).symm⟩
    next => cases h
  next ver bs =>
    split at h
    next u tail hdec =>
      cases h
      obtain ⟨hfits, rfl⟩ := decodeUnit_eq_ok_iff.1 hdec
      obtain ⟨hwf, hsp⟩ := (u.fits_iff ver).1 hfits
      exact ⟨hwf, hsp, by rw [encode_toInstr]; rfl⟩
    next => cases h
  next ver bs =>
    obtain ⟨u, hzero, hfits, rfl, rfl⟩ | ⟨rfl, n, b, hb, rfl, rfl⟩ := decodeRecord_cases h
    · obtain ⟨hwf, hsp⟩ := (u.fits_iff ver).1 hfits
      exact ⟨hwf, inSpace_record_of_unit hzero hsp, by rw [encode_toInstr]; rfl⟩
    · exact ⟨by simpa [Instr.wf] using hb, rfl, by simp [encode, Code.followedBy]⟩
  next => cases h

end Sys2Proof
end

section
/-! What stands at the front of an image and at the read cursor, in terms of its bytes (R15, R82, R90), and the
header row (O14). -/

namespace Sys2Proof.Machine

/-! ## Bytes of an image -/

/-- Reading fewer bytes gives the front of what reading more gives (R15). -/
theorem Memory.take_bytesFrom (m : Memory) (a k n : Nat) :
    (m.bytesFrom a n).take k = m.bytesFrom a (min k n) := by
  induction k generalizing a n with
  | zero => simp [Memory.bytesFrom]
  | succ k ih =>
    cases n with
    | zero => simp [Memory.bytesFrom]
    | succ n =>
      rw [Nat.add_min_add_right, Memory.bytesFrom, Memory.bytesFrom]
      cases m.byte? a with
      | none => rfl
      | some b => rw [List.take_succ_cons, ih]

/-- The first of the bytes read is the byte at the offset. -/
theorem Memory.bytesFrom_succ_eq_cons_iff (m : Memory) (a n : Nat) (b : Byte) (t : List Byte) :
    m.bytesFrom a (n + 1) = b :: t ↔ m.byte? a = some b ∧ m.bytesFrom (a + 1) n = t := by
  rw [Memory.bytesFrom]
  cases m.byte? a with
  | none => simp
  | some c => simp

/-- The image has a byte only below its length (R52). -/
theorem Memory.lt_len_of_byte? {m : Memory} {a : Nat} {b : Byte} (h : m.byte? a = some b) : a < m.len := by
  by_contra hge
  rw [Memory.byte?, if_neg hge] at h
  cases h

/-! ## The unit at the read cursor -/

/-- The unit at the cursor is the one the version has whose bytes stand there (R83, R90). -/
theorem unitAtCursor_eq_ok_iff {s : State} {u : RecUnit} :
    s.unitAtCursor = .ok u ↔ u.Fits s.status.version ∧
      s.inImg.bytesFrom s.inPos.toNat (encodeUnit u).length = encodeUnit u := by
  have hlen : (encodeUnit u).length ≤ 4 := by cases u <;> simp [encodeUnit]
  have hfront : s.inImg.bytesFrom s.inPos.toNat (encodeUnit u).length =
      (s.inImg.bytesFrom s.inPos.toNat 4).take (encodeUnit u).length := by
    rw [Memory.take_bytesFrom, Nat.min_eq_left hlen]
  have hdec : s.unitAtCursor = .ok u ↔
      ∃ rest, decodeUnit s.status.version (s.inImg.bytesFrom s.inPos.toNat 4) = .ok (u, rest) := by
    unfold State.unitAtCursor
    split <;> simp_all
  rw [hdec, hfront]
  simp only [decodeUnit_eq_ok_iff, exists_and_left]
  refine and_congr_right' ⟨fun ⟨rest, hbytes⟩ => by rw [hbytes, List.take_left], fun htake => ?_⟩
  exact ⟨_, (List.take_append_drop (encodeUnit u).length _).symm.trans (congrArg (· ++ _) htake)⟩

/-- A unit of one byte stands at the cursor where its byte does (R84, R85). -/
theorem unitAtCursor_eq_short_iff {s : State} {b : Byte} :
    s.unitAtCursor = .ok (.short b) ↔ b ≠ 0 ∧ HasAt s 0 b := by
  rw [unitAtCursor_eq_ok_iff]
  exact and_congr_right' ((Memory.bytesFrom_succ_eq_cons_iff ..).trans (and_iff_left rfl))

theorem unitAtCursor_eq_zero_iff {s : State} :
    s.unitAtCursor = .ok .zero ↔ s.status.version = 0 ∧ HasAt s 0 0 := by
  rw [unitAtCursor_eq_ok_iff]
  exact and_congr_right' ((Memory.bytesFrom_succ_eq_cons_iff ..).trans (and_iff_left rfl))

/-! ## The header -/

/-- The header at the front of the image is the one of legal version whose bytes stand there (R81, R82). -/
theorem headerAtFront_eq_some_iff {s : State} {h : Header} (hp : s.par.magicA ≠ s.par.magicB) :
    s.headerAtFront = some h ↔
      h.ver.toNat ≤ 2 ∧ s.inImg.bytesFrom 0 20 = encodeHeader s.par h := by
  unfold State.headerAtFront
  constructor
  · intro hfront
    split at hfront
    next hd rest hdec =>
      cases hfront
      have hbytes := encodeHeader_of_decodeHeader hdec
      have hrest : rest = [] := by
        have hlen := congrArg List.length hbytes
        rw [Memory.bytesFrom_length, List.length_append, encodeHeader_length] at hlen
        exact List.length_eq_zero_iff.1 (by omega)
      exact ⟨(decodeHeader_bounds hdec).2, by rw [hbytes, hrest, List.append_nil]⟩
    next => cases hfront
  · rintro ⟨hver, hbytes⟩
    have hdec := decodeHeader_encodeHeader [] hp hver
    rw [List.append_nil, ← hbytes] at hdec
    rw [hdec]

theorem headerInfo_eq (h : Header) : headerInfo h =
    BitVec.ofNat 32 (h.ver.toNat + 256 * h.mach.toNat + 65536 * h.vid.toNat + 16777216 * h.rsv.toNat) := by
  unfold headerInfo wordOfLE
  congr 1
  simp only [fromLE]
  omega

/-- Settles O14. -/
theorem headerRowIsAcceptedAtTheFrontOfTheImage : Obligations.HeaderRowIsAcceptedAtTheFrontOfTheImage := by
  intro s h hp
  have hfront := headerAtFront_eq_some_iff (h := h) hp
  refine ⟨fun hver hbytes => ?_, ?_⟩
  · have hsome := hfront.2 ⟨hver, hbytes⟩
    simp only [exec, execHdr, execOpenRead, openGate, hsome, if_true]
  · obtain ⟨hidle, hclosed, he⟩ | ⟨hopen, hcfg, he⟩ | ⟨hopen, hcfg, he⟩ :=
      openGate_cases (show execHdr h s = exec (.hdr h) s from rfl)
    · rw [if_pos (.inl (by simp [MayOpen, hidle, hclosed]))]; exact he
    · rw [if_pos (.inr (by simp [← cfgValid_iff, hcfg]))]; exact he
    · have hgo : ¬ (¬ MayOpen s ∨ ¬ CfgLegal s.arg0) := by
        rw [← cfgValid_iff]; simp [hopen, hcfg]
      rw [if_neg hgo, he]
      simp only [hfront, State.acceptHeader, headerInfo_eq]
      split_ifs
      · rw [BitVec.ofNat_toNat]; rfl
      · rfl

end Sys2Proof.Machine
end

section
/-! The record rows in a read stream (O6, O39 to O42; R83 to R90, R148 to R153; log 8): what DEC does with the
unit at the cursor, what it has read after some zero bytes of one record, and that REC_DECODE's loop and a
chain row take the same units. -/

namespace Sys2Proof.Machine

/-! ## The gate of the rows -/

section
variable {dec enc : State → Option Micro} {s : State}

theorem streamRow_of_mayOpen (h : MayOpen s) : streamRow dec enc s = .next (s.finish .invalidArguments) := by
  obtain h | h := h <;> simp [streamRow, pulseGate, ended, h]

theorem streamRow_of_interrupted (h : s.status.state = .interrupted) :
    streamRow dec enc s = .next (s.finish .interrupted) := by
  simp [streamRow, pulseGate, ended, h]

theorem streamRow_of_error (h : s.status.state = .error) :
    streamRow dec enc s = .next (s.finish .genericFailure) := by
  simp [streamRow, pulseGate, ended, h]

theorem streamRow_of_term (h : s.status.state = .reading ∨ s.status.state = .writing) (ht : s.term = true) :
    streamRow dec enc s = .next s.cancel := by
  obtain h | h := h <;> simp [streamRow, pulseGate, h, ht]

theorem streamRow_reading (h : Ready s .reading) :
    streamRow dec enc s = rowOut (dec s) := by
  rw [streamRow, if_neg (by simp [h.1]), pulseGate_ready h.1 h.2 nofun nofun]

theorem streamRow_writing (h : Ready s .writing) :
    streamRow dec enc s = rowOut (enc s) := by
  rw [streamRow, if_pos h.1, pulseGate_ready h.1 h.2 nofun nofun]

end

/-- A unit's row runs as that unit (R84 to R89). -/
theorem exec_toInstr (u : RecUnit) (s : State) : exec u.toInstr s = unitRow u s := by
  cases u with
  | short b => rfl
  | zero => rfl
  | ext v =>
    obtain ⟨rfl, hi⟩ | ⟨rfl, hi⟩ | ⟨-, -, hi⟩ := RecUnit.toInstr_ext_cases v
    all_goals rw [hi]; rfl

theorem exec_v0chain {n : Nat} (hn : n ≠ 0) (b : Byte) (s : State) :
    exec (.v0chain n b) s = streamRow (chainRow decRow n b) (chainRow encRow n b) s := by
  show streamRow (fun s => if n = 0 then none else chainRow decRow n b s)
    (fun s => if n = 0 then none else chainRow encRow n b s) s = _
  simp only [if_neg hn]

/-! ## One row of DEC -/

theorem decRow_eq_some {u : RecUnit} {s : State} (h : s.unitAtCursor = .ok u) :
    decRow u s = some (decUnit u s.beginIfFresh) := by
  simp [decRow, h]

theorem decRow_eq_none {u : RecUnit} {s : State} (h : s.unitAtCursor ≠ .ok u) : decRow u s = none := by
  unfold decRow
  split
  next u' hu => exact if_neg fun he => h (hu.trans (congrArg _ he))
  next => rfl

theorem unitRow_of_unitAtCursor {u : RecUnit} {s : State} (h : Ready s .reading)
    (hu : s.unitAtCursor = .ok u) : unitRow u s = (decUnit u s.beginIfFresh).out := by
  rw [unitRow, streamRow_reading h, decRow_eq_some hu]; rfl

/-- A row sets `start` once (R148). -/
theorem decRow_beginIfFresh (u : RecUnit) (s : State) : decRow u s.beginIfFresh = decRow u s := by
  by_cases hz : s.dec.zeros = 0
  · have hbegin : s.beginIfFresh = s.beginRecord := if_pos hz
    have hagain : s.beginRecord.beginIfFresh = s.beginRecord := if_pos rfl
    have hunit : s.beginRecord.unitAtCursor = s.unitAtCursor := rfl
    simp only [decRow, hbegin, hagain, hunit]
  · rw [State.beginIfFresh, if_neg hz]

/-- A byte at the cursor can be taken without wrapping it (R51, R52). -/
theorem inPos_add_one_toNat {s : State} {b : Byte} (hlen : s.inImg.len ≤ wordMax) (hb : HasAt s 0 b) :
    (s.inPos + 1).toNat = s.inPos.toNat + 1 :=
  have hlt := Memory.lt_len_of_byte? hb
  inPos_succ_toNat ⟨hlt.le, hlen⟩ hlt

theorem zeroExtend_shiftLeft_three (b : Byte) :
    (b.zeroExtend 32 <<< 3 : Word) = BitVec.ofNat 32 (8 * b.toNat) := by
  have hb := b.isLt
  apply BitVec.eq_of_toNat_eq
  simp only [BitVec.truncate_eq_setWidth, BitVec.toNat_shiftLeft, BitVec.toNat_setWidth, BitVec.toNat_ofNat,
    Nat.shiftLeft_eq]
  omega

/-- The form stands above the 24 bits of the byte count (R100). -/
theorem recInfo_eq (consumed : Nat) (form : Nat) :
    recInfo consumed form = BitVec.ofNat 32 (min consumed 0xFFFFFF + form * 16777216) := by
  have hlow : min consumed 0xFFFFFF < 2 ^ 24 := by omega
  have hor := Nat.shiftLeft_add_eq_or_of_lt hlow form
  have hshift : BitVec.ofNat 32 form <<< 24 = BitVec.ofNat 32 (form <<< 24) := by
    apply BitVec.eq_of_toNat_eq
    simp only [BitVec.toNat_shiftLeft, BitVec.toNat_ofNat, Nat.shiftLeft_eq]
    omega
  rw [recInfo, hshift, ← BitVec.ofNat_or, Nat.or_comm, ← hor, Nat.shiftLeft_eq, Nat.add_comm]

/-- What a non-zero byte leaves (R149, R152, R153): alone it is SHORT, after zero bytes it closes the chain. -/
theorem decShort_eq (b : Byte) (s : State) : decShort b s =
    .done ((s.consume 1).decoded
      (if s.dec.zeros = 0 ∨ s.streamCfg.getLsbD 5 = true then BitVec.ofNat 32 (8 * b.toNat)
        else s.dec.acc + BitVec.ofNat 32 (8 * b.toNat))
      (if s.dec.zeros = 0 then 1 else 2)) := by
  unfold decShort cfgOverwrite
  simp only [zeroExtend_shiftLeft_three]
  split_ifs <;> first | rfl | tauto

/-- Settles O39. -/
theorem shortRowIsDecoded : Obligations.ShortRowIsDecoded := by
  intro s b hready hlen hat hb
  have hnext := inPos_add_one_toNat hlen hat
  have hu : s.unitAtCursor = .ok (.short b) := unitAtCursor_eq_short_iff.2 ⟨hb, hat⟩
  show unitRow (.short b) s = _
  rw [unitRow_of_unitAtCursor hready hu, decUnit, decShort_eq, State.decoded_eq, recInfo_eq]
  by_cases hz : s.dec.zeros = 0
  · have hone : (s.beginRecord.consume 1).consumed = 1 := by
      show (s.inPos + 1).toNat - s.inPos.toNat = 1
      omega
    rw [State.beginIfFresh, if_pos hz, hone]
    simp [hz]; rfl
  · have hcount : (s.consume 1).consumed = s.inPos.toNat + 1 - s.dec.start.toNat := by
      rw [← hnext]; rfl
    rw [State.beginIfFresh, if_neg hz, hcount]
    simp [hz]; rfl

theorem beginIfFresh_eq (s : State) : s.beginIfFresh = { s with dec := {
    start := if s.dec.zeros = 0 then s.inPos else s.dec.start
    acc := if s.dec.zeros = 0 then 0 else s.dec.acc
    zeros := s.dec.zeros } } := by
  by_cases hz : s.dec.zeros = 0
  · simp only [State.beginIfFresh, hz, if_true, State.beginRecord]
  · simp only [State.beginIfFresh, hz, if_false]

/-- Settles O40. -/
theorem escapeRowIsDecoded : Obligations.EscapeRowIsDecoded := by
  intro s hready hlen hver hat
  have hu : s.unitAtCursor = .ok .zero := unitAtCursor_eq_zero_iff.2 ⟨hver, hat⟩
  show unitRow .zero s = _
  have hcases := decZero_cases s.beginIfFresh
  rw [unitRow_of_unitAtCursor hready hu, decUnit]
  rw [beginIfFresh_eq] at hcases ⊢
  obtain ⟨hcfg, he⟩ | ⟨hcfg, hover, he⟩ | ⟨hcfg, hfits, he⟩ := hcases
  · have hmode : s.streamCfg.getLsbD 5 = true := hcfg
    rw [he, if_pos hmode]; rfl
  · have hmode : ¬ s.streamCfg.getLsbD 5 = true := Bool.eq_false_iff.1 hcfg
    rw [he, if_neg hmode, if_pos hover, State.overLimit_eq]; rfl
  · have hmode : ¬ s.streamCfg.getLsbD 5 = true := Bool.eq_false_iff.1 hcfg
    rw [he, if_neg hmode, if_neg (Nat.not_lt.2 hfits)]; rfl

/-- Settles O42. -/
theorem extendedRowsAreDecoded : Obligations.ExtendedRowsAreDecoded := by
  intro s v hready hlen hver hbytes i hi
  have hu : s.unitAtCursor = .ok (.ext v) := unitAtCursor_eq_ok_iff.2 ⟨hver, hbytes⟩
  have hrow : exec i s = unitRow (.ext v) s := by
    obtain rfl | ⟨rfl, rfl⟩ | ⟨rfl, rfl⟩ := hi <;> rfl
  have hvalue : v.zeroExtend 32 = BitVec.ofNat 32 v.toNat := (BitVec.ofNat_toNat 32 v).symm
  rw [hrow, unitRow_of_unitAtCursor hready hu, decUnit, decExt, hvalue, State.beginIfFresh]
  split_ifs <;> rfl

/-! ## Zero bytes of one record -/

/-- DEC after the first n zero bytes of a version-0 record that began at the cursor of s (R148, R152, R153). -/
def State.afterZeros (n : Nat) (s : State) : State :=
  { s with
    inPos := s.inPos + BitVec.ofNat 32 n
    dec := {
      start := s.inPos
      acc := if s.streamCfg.getLsbD 5 = true then 0 else BitVec.ofNat 32 (2048 * n)
      zeros := n } }

theorem beginIfFresh_eq_afterZeros {s : State} (h : s.dec.zeros = 0) :
    s.beginIfFresh = s.afterZeros 0 := by
  simp [State.beginIfFresh, h, State.beginRecord, State.afterZeros]

theorem beginIfFresh_afterZeros (n : Nat) (s : State) : (s.afterZeros n).beginIfFresh = s.afterZeros n := by
  by_cases hn : n = 0
  · subst hn
    have hbegin : (s.afterZeros 0).beginIfFresh = (s.afterZeros 0).beginRecord := if_pos rfl
    rw [hbegin]
    simp [State.beginRecord, State.afterZeros]
  · exact if_neg hn

/-- The cursor after n zero bytes, where that many may be counted. -/
theorem afterZeros_inPos_toNat {s : State} {n : Nat} (h : s.inPos.toNat + n ≤ wordMax) :
    (s.afterZeros n).inPos.toNat = s.inPos.toNat + n := by
  have hmax : s.inPos.toNat + n ≤ 4294967295 := h
  simp only [State.afterZeros, BitVec.toNat_add, BitVec.toNat_ofNat]
  omega

theorem hasAt_afterZeros {s : State} {n : Nat} (b : Byte) (h : s.inPos.toNat + n ≤ wordMax) :
    HasAt (s.afterZeros n) 0 b ↔ HasAt s n b := by
  rw [HasAt, HasAt, afterZeros_inPos_toNat h]; rfl

/-- One more zero byte, within the 32-bit accumulator (R152, R153, R157). -/
theorem decZero_afterZeros {s : State} {n : Nat} (hacc : s.streamCfg.getLsbD 5 = false → n + 1 ≤ 2097151) :
    decZero (s.afterZeros n) = .more (s.afterZeros (n + 1)) := by
  have hpos : s.inPos + BitVec.ofNat 32 n + BitVec.ofNat 32 1 = s.inPos + BitVec.ofNat 32 (n + 1) := by
    rw [BitVec.add_assoc, BitVec.ofNat_add]
  obtain ⟨hcfg, he⟩ | ⟨hcfg, hover, -⟩ | ⟨hcfg, -, he⟩ := decZero_cases (s.afterZeros n)
  · have hmode : s.streamCfg.getLsbD 5 = true := hcfg
    rw [he]
    simp only [State.afterZeros, hmode, if_true, hpos]
  · have hmode : s.streamCfg.getLsbD 5 = false := hcfg
    have hbound := hacc hmode
    simp only [State.afterZeros, hmode, wordMax, BitVec.toNat_ofNat, Bool.false_eq_true, if_false] at hover
    omega
  · have hmode : s.streamCfg.getLsbD 5 = false := hcfg
    have hsum : BitVec.ofNat 32 (2048 * n) + 2048 = BitVec.ofNat 32 (2048 * (n + 1)) := by
      rw [Nat.mul_succ, BitVec.ofNat_add]; rfl
    rw [he]
    simp only [State.afterZeros, hmode, Bool.false_eq_true, if_false, hpos, hsum]

/-- A chain's row takes the zero byte at the cursor and goes on (R86). -/
theorem chainRow_decRow_succ {s : State} (n : Nat) (b : Byte) {m : Nat} (hver : s.status.version = 0)
    (hlen : s.inImg.len ≤ wordMax) (hat : HasAt s m 0)
    (hacc : s.streamCfg.getLsbD 5 = false → m + 1 ≤ 2097151) :
    chainRow decRow (n + 1) b (s.afterZeros m) = chainRow decRow n b (s.afterZeros (m + 1)) := by
  have hmax := (Memory.lt_len_of_byte? hat).le.trans hlen
  have hu : (s.afterZeros m).unitAtCursor = .ok .zero :=
    unitAtCursor_eq_zero_iff.2 ⟨hver, (hasAt_afterZeros 0 hmax).2 hat⟩
  rw [chainRow, decRow_eq_some hu, beginIfFresh_afterZeros, decUnit, decZero_afterZeros hacc]

theorem chainRow_decRow_zeros {s : State} (b : Byte) (hver : s.status.version = 0)
    (hlen : s.inImg.len ≤ wordMax) (m n : Nat) (hzeros : ∀ k, k < m + n → HasAt s k 0)
    (hacc : s.streamCfg.getLsbD 5 = false → m + n ≤ 2097151) :
    chainRow decRow n b (s.afterZeros m) = decRow (.short b) (s.afterZeros (m + n)) := by
  induction n generalizing m with
  | zero => rfl
  | succ n ih =>
    have hcount : m + (n + 1) = m + 1 + n := by omega
    rw [chainRow_decRow_succ n b hver hlen (hzeros m (by omega)) (fun h => by have := hacc h; omega), hcount]
    rw [hcount] at hzeros hacc
    exact ih (m + 1) hzeros hacc

/-- At the start of a record a row reads on from no zero bytes. -/
theorem chainRow_decRow_of_fresh {s : State} (h : s.dec.zeros = 0) (n : Nat) (b : Byte) :
    chainRow decRow n b s = chainRow decRow n b (s.afterZeros 0) := by
  have hrow (u : RecUnit) : decRow u s = decRow u (s.afterZeros 0) := by
    rw [← beginIfFresh_eq_afterZeros h, decRow_beginIfFresh]
  cases n with
  | zero => exact hrow _
  | succ n => simp only [chainRow, hrow]

/-- The closing byte after n zero bytes ends the chain (R152, R153). -/
theorem decShort_afterZeros {s : State} {n : Nat} (b : Byte) (hn : n ≠ 0)
    (hmax : s.inPos.toNat + (n + 1) ≤ wordMax) :
    decShort b (s.afterZeros n) = .done { s with
      inPos := s.inPos + BitVec.ofNat 32 (n + 1)
      res0 := BitVec.ofNat 32
        (if s.streamCfg.getLsbD 5 = true then 8 * b.toNat else 2048 * n + 8 * b.toNat)
      res1 := BitVec.ofNat 32 (min (n + 1) 0xFFFFFF + 2 * 16777216)
      dec := DecWork.idle
      status := { s.status with result := .ok } } := by
  have hpos : ((s.afterZeros n).consume 1).inPos = (s.afterZeros (n + 1)).inPos := by
    simp only [State.consume_inPos, State.afterZeros, BitVec.add_assoc, BitVec.ofNat_add]
  have hcount : ((s.afterZeros n).consume 1).consumed = n + 1 := by
    rw [State.consumed, hpos, afterZeros_inPos_toNat hmax]
    exact Nat.add_sub_cancel_left ..
  have hzeros : ¬ (s.afterZeros n).dec.zeros = 0 := hn
  rw [decShort_eq, State.decoded_eq, recInfo_eq, hcount, hpos, if_neg hzeros]
  cases hmode : s.streamCfg.getLsbD 5 with
  | true => simp only [State.afterZeros, hmode, if_true, or_true]; rfl
  | false =>
    simp only [State.afterZeros, hmode, Bool.false_eq_true, if_false, hn, or_false, BitVec.ofNat_add]; rfl

/-- Settles O41. -/
theorem chainRowIsDecoded : Obligations.ChainRowIsDecoded := by
  intro s n b hready hlen hver hfresh hn hacc hzeros hclose hb
  have hmax : s.inPos.toNat + n < wordMax := (Memory.lt_len_of_byte? hclose).trans_le hlen
  have hat : HasAt (s.afterZeros n) 0 b := (hasAt_afterZeros b hmax.le).2 hclose
  have hu : (s.afterZeros n).unitAtCursor = .ok (.short b) := unitAtCursor_eq_short_iff.2 ⟨hb, hat⟩
  have hzeros' : ∀ k, k < 0 + n → HasAt s k 0 := by simpa using hzeros
  have hacc' : s.streamCfg.getLsbD 5 = false → 0 + n ≤ 2097151 := by simpa using hacc
  rw [exec_v0chain (by omega), streamRow_reading hready, chainRow_decRow_of_fresh hfresh,
    chainRow_decRow_zeros b hver hlen 0 n hzeros' hacc', Nat.zero_add, decRow_eq_some hu,
    beginIfFresh_afterZeros, decUnit, decShort_afterZeros b (by omega) (by omega)]
  rfl

end Sys2Proof.Machine
end

section
/-! REC_DECODE and the row at the cursor (O6; R83, R90, R148; log 8): the loop takes a unit that is no escape in
its first turn, and a chain unit by unit as the chain's row does. -/

namespace Sys2Proof.Machine

theorem decTurn_of_unitAtCursor {s : State} {u : RecUnit} (h : s.unitAtCursor = .ok u) :
    decTurn s = decUnit u s := by
  have hlt := inPos_lt_of_unitAtCursor h
  rw [decTurn, if_neg (by omega), h]

/-- Only an escape leaves the record open (R148). -/
theorem decUnit_done {u : RecUnit} (hu : u ≠ .zero) (s : State) : ∃ t, decUnit u s = .done t := by
  cases u with
  | short b => exact decShort_done b s
  | zero => exact absurd rfl hu
  | ext v => exact ⟨_, rfl⟩

theorem decLoop_of_unitAtCursor {s : State} {u : RecUnit} (h : s.unitAtCursor = .ok u) (hu : u ≠ .zero)
    (fuel : Nat) : decLoop (fuel + 1) s = decUnit u s := by
  obtain ⟨t, ht⟩ := decUnit_done hu s
  rw [decLoop, decTurn_of_unitAtCursor h, ht]; rfl

/-- A zero byte that leaves the record open is taken and counted (R148). -/
theorem decZero_more {s t : State} (h : decZero s = .more t) :
    t.inPos = s.inPos + 1 ∧ t.dec.zeros = s.dec.zeros + 1 ∧ t.inImg = s.inImg ∧ t.status = s.status := by
  obtain ⟨-, he⟩ | ⟨-, -, he⟩ | ⟨-, -, he⟩ := decZero_cases s
  · cases he.symm.trans h; exact ⟨rfl, rfl, rfl, rfl⟩
  · cases he.symm.trans h
  · cases he.symm.trans h; exact ⟨rfl, rfl, rfl, rfl⟩

/-- What stands in front of other bytes is what the image holds there (R15). -/
theorem Memory.bytesFrom_of_append {m : Memory} {a n : Nat} {xs ys : List Byte}
    (h : m.bytesFrom a n = xs ++ ys) : m.bytesFrom a xs.length = xs := by
  have hlen := congrArg List.length h
  rw [Memory.bytesFrom_length, List.length_append] at hlen
  have htake := congrArg (List.take xs.length) h
  rwa [Memory.take_bytesFrom, List.take_left, Nat.min_eq_left (by omega)] at htake

/-- In a record that has begun, the loop and the chain's row take the same units (R86, R148). -/
theorem decLoop_eq_chainRow {s : State} {n : Nat} {b : Byte} (hbegun : s.beginIfFresh = s)
    (hver : s.status.version = 0) (hlen : s.inImg.len ≤ wordMax) (hb : b ≠ 0)
    (hbytes : s.inImg.bytesFrom s.inPos.toNat (n + 1) = List.replicate n 0 ++ [b])
    {fuel : Nat} (hfuel : n < fuel) : chainRow decRow n b s = some (decLoop fuel s) := by
  induction n generalizing s fuel with
  | zero =>
    obtain ⟨fuel, rfl⟩ := Nat.exists_eq_add_of_lt hfuel
    have hu : s.unitAtCursor = .ok (.short b) := unitAtCursor_eq_ok_iff.2 ⟨hb, hbytes⟩
    rw [Nat.zero_add, decLoop_of_unitAtCursor hu nofun, chainRow, decRow_eq_some hu, hbegun]
  | succ n ih =>
    obtain ⟨fuel, rfl⟩ := Nat.exists_eq_add_of_lt hfuel
    obtain ⟨hat, hrest⟩ := (Memory.bytesFrom_succ_eq_cons_iff ..).1 hbytes
    have hu : s.unitAtCursor = .ok .zero := unitAtCursor_eq_zero_iff.2 ⟨hver, hat⟩
    rw [decLoop, decTurn_of_unitAtCursor hu, chainRow, decRow_eq_some hu, hbegun, decUnit]
    cases hz : decZero s with
    | more t =>
      obtain ⟨hpos, hcount, himg, hstatus⟩ := decZero_more hz
      have hnext := inPos_add_one_toNat hlen hat
      refine ih (if_neg (by omega)) (hstatus ▸ hver) (himg ▸ hlen) ?_ (by omega)
      rw [himg, hpos, hnext]; exact hrest
    | done t => rfl
    | stop f => rfl

/-- Settles O6. -/
theorem recDecodeRunsTheRowAtTheCursor : Obligations.RecDecodeRunsTheRowAtTheCursor := by
  intro s i rest hready hlen hidle hpos hdec
  have hfresh : s.dec.zeros = 0 := by rw [hidle]; rfl
  have hbegin : s.beginIfFresh = s.beginRecord := if_pos hfresh
  have hcmd : exec .recDecode s =
      (decLoop (s.inImg.len - s.inPos.toNat + 1) s.beginRecord).out :=
    pulseGate_ready hready.1 hready.2 nofun nofun
  rw [hcmd]
  obtain ⟨u, hu, hfits, rfl, hbytes⟩ | ⟨hver, n, b, hb, rfl, hbytes⟩ := decodeRecord_cases hdec
  · have hcur : s.unitAtCursor = .ok u :=
      unitAtCursor_eq_ok_iff.2 ⟨hfits, Memory.bytesFrom_of_append hbytes⟩
    rw [exec_toInstr, unitRow_of_unitAtCursor hready hcur, hbegin,
      decLoop_of_unitAtCursor (s := s.beginRecord) hcur hu]
  · have hchain : s.inImg.bytesFrom s.inPos.toNat (n + 2) = List.replicate (n + 1) 0 ++ [b] := by
      have happ := Memory.bytesFrom_of_append (xs := List.replicate (n + 1) 0 ++ [b]) (ys := rest)
        (by rw [hbytes, List.append_assoc]; rfl)
      rwa [List.length_append, List.length_replicate] at happ
    have hfuel : n + 1 < s.inImg.len - s.inPos.toNat + 1 := by
      have hcount := congrArg List.length hchain
      rw [Memory.bytesFrom_length, List.length_append, List.length_replicate, List.length_singleton] at hcount
      omega
    rw [exec_v0chain (by omega), streamRow_reading hready, chainRow_decRow_of_fresh hfresh,
      ← beginIfFresh_eq_afterZeros hfresh, hbegin,
      decLoop_eq_chainRow (s := s.beginRecord) (if_pos rfl) hver hlen hb hchain hfuel]
    rfl

end Sys2Proof.Machine
end

section
/-! The canonical records of a pulse (R94): the escapes first, then the closing record, which is what ENC owes
next (R170); and what they read back as (O38; R185). -/

namespace Sys2Proof.Machine

/-! ## Escapes -/

theorem escapeCycles_pos (ver : BitVec 2) : 0 < escapeCycles ver := by
  unfold escapeCycles; split_ifs <;> decide

theorem overflowUnit_eq_escapeCycles (ver : BitVec 2) : overflowUnit ver = escapeCycles ver := rfl

theorem escapes_eq_div (ver : BitVec 2) (d : Nat) : escapes ver d = d / escapeCycles ver := by
  unfold escapes escapeCycles; split_ifs <;> rfl

theorem remainder_eq_mod (ver : BitVec 2) (d : Nat) : remainder ver d = d % escapeCycles ver := by
  unfold remainder escapeCycles; split_ifs <;> rfl

/-- The escape of a version as a unit (R171). -/
def escapeUnit (ver : BitVec 2) : RecUnit := if ver = 0 then .zero else .ext 0xFFFFFF

theorem encodeUnit_escapeUnit (ver : BitVec 2) : encodeUnit (escapeUnit ver) = escapeBytes ver := by
  unfold escapeUnit escapeBytes; split_ifs <;> rfl

/-- An escape is owed while the residual holds its unit (R173). -/
theorem encNext_of_escapeCycles_le {ver : BitVec 2} {d : Nat} (mark : Bool) (h : escapeCycles ver ≤ d) :
    encNext ver d mark = some (escapeUnit ver) :=
  if_pos h

/-! ## The closing record -/

/-- A short residual as ENC rounds it is R185's (R175). -/
theorem shortByte_eq_recordByte (r : Nat) : shortByte r = recordByte r := by
  unfold shortByte recordByte roundedCycles
  congr 1
  omega

theorem eight_mul_recordByte_toNat (r : Nat) : 8 * (recordByte r).toNat = roundedCycles r := by
  unfold recordByte roundedCycles
  simp only [BitVec.toNat_ofNat]
  omega

theorem recordByte_ne_zero {r : Nat} (hr : r ≠ 0) : recordByte r ≠ 0 := by
  intro h
  have h8 := eight_mul_recordByte_toNat r
  rw [h] at h8
  change 0 = roundedCycles r at h8
  unfold roundedCycles at h8
  omega

/-- A residual below the escape's value fits an extended record that is no escape (R87, R88). -/
theorem ofNat24_of_lt {r : Nat} (h : r < 0xFFFFFF) :
    (BitVec.ofNat 24 r).toNat = r ∧ BitVec.ofNat 24 r ≠ 0xFFFFFF := by
  have hval : (BitVec.ofNat 24 r).toNat = r := Nat.mod_eq_of_lt (by omega)
  refine ⟨hval, fun he => ?_⟩
  have h24 := congrArg BitVec.toNat he
  rw [hval] at h24
  exact absurd h24 h.ne

/-- How a pulse ends after its escapes (R94, R170, R174 to R176): with nothing more, an extended record or a
SHORT byte, each of them what ENC owes next. -/
theorem closing_cases (ver : BitVec 2) (d : Nat) (mark : Bool) :
    (encNext ver (remainder ver d) (escapedMark ver (escapes ver d) mark) = none ∧
      ¬ endsExtended ver d mark ∧ remainder ver d = 0 ∧ closingBytes ver d mark = [] ∧
      canonicalMark ver d mark = escapedMark ver (escapes ver d) mark) ∨
    (∃ v : Value24,
      encNext ver (remainder ver d) (escapedMark ver (escapes ver d) mark) = some (.ext v) ∧
      ver ≠ 0 ∧ endsExtended ver d mark ∧ v ≠ 0xFFFFFF ∧ v.toNat = remainder ver d ∧
      closingBytes ver d mark = encodeUnit (.ext v) ∧ canonicalMark ver d mark = false) ∨
    (encNext ver (remainder ver d) (escapedMark ver (escapes ver d) mark) =
        some (.short (recordByte (remainder ver d))) ∧
      ¬ endsExtended ver d mark ∧ remainder ver d ≠ 0 ∧
      closingBytes ver d mark = [recordByte (remainder ver d)] ∧
      canonicalMark ver d mark = escapedMark ver (escapes ver d) mark) := by
  have hlt : remainder ver d < escapeCycles ver := by
    rw [remainder_eq_mod]; exact Nat.mod_lt _ (escapeCycles_pos ver)
  have hno : ¬ overflowUnit ver ≤ remainder ver d := Nat.not_le.2 hlt
  have hext : (2048 ≤ remainder ver d ∨ remainder ver d = 0 ∧ ver ≠ 0 ∧
      escapedMark ver (escapes ver d) mark = true) ↔ endsExtended ver d mark := by
    unfold endsExtended owesZero escapedMark
    by_cases hver : ver = 0
    · simp [hver]
    · rw [if_neg hver, Bool.or_eq_true, decide_eq_true_eq, or_comm (a := mark = true)]
      tauto
  have hmark : ¬ endsExtended ver d mark →
      canonicalMark ver d mark = escapedMark ver (escapes ver d) mark := by
    intro hend
    simp only [canonicalMark, escapedMark, if_neg hend]
  by_cases hend : endsExtended ver d mark
  · have hver : ver ≠ 0 := by
      rintro rfl
      obtain hbig | hzero := hend
      · exact absurd hlt (Nat.not_lt.2 hbig)
      · exact hzero.1 rfl
    have hlt24 : remainder ver d < 0xFFFFFF := by rwa [escapeCycles, if_neg hver] at hlt
    obtain ⟨hval, hne⟩ := ofNat24_of_lt hlt24
    refine .inr (.inl ⟨BitVec.ofNat 24 (remainder ver d), ?_, hver, hend, hne, hval, ?_, ?_⟩)
    · rw [encNext, if_neg hno, if_pos (hext.2 hend)]
    · rw [closingBytes, if_pos hend, encodeUnit, hval]
    · rw [canonicalMark, if_neg hver, if_pos hend]
  · by_cases hzero : remainder ver d = 0
    · refine .inl ⟨?_, hend, hzero, ?_, hmark hend⟩
      · rw [encNext, if_neg hno, if_neg (mt hext.1 hend), if_neg (by omega)]
      · rw [closingBytes, if_neg hend, if_pos hzero]
    · refine .inr (.inr ⟨?_, hend, hzero, ?_, hmark hend⟩)
      · rw [encNext, if_neg hno, if_neg (mt hext.1 hend), if_pos (by omega), shortByte_eq_recordByte]
      · rw [closingBytes, if_neg hend, if_neg hzero]

/-! ## Reading back -/

/-- The cycles of a unit that is a whole record (R84, R87). -/
def unitCycles : RecUnit → Nat
  | .short b => 8 * b.toNat
  | .zero => 2048
  | .ext v => v.toNat

theorem recordCycles_encodeUnit {ver : BitVec 2} {u : RecUnit} (hfits : u.Fits ver) (hu : u ≠ .zero)
    (fuel : Nat) (t : List Byte) :
    recordCycles ver (fuel + 1) (encodeUnit u ++ t) = unitCycles u :: recordCycles ver fuel t := by
  have hdec := decodeRecord_of_decodeUnit (decodeUnit_encodeUnit t hfits) hu
  cases u with
  | short b => rw [recordCycles, hdec]; rfl
  | zero => exact absurd rfl hu
  | ext v =>
    obtain ⟨hv, hi⟩ | ⟨hv, hi⟩ | ⟨-, -, hi⟩ := RecUnit.toInstr_ext_cases v
    · rw [recordCycles, hdec, hi, hv]; rfl
    · rw [recordCycles, hdec, hi, hv]; rfl
    · rw [recordCycles, hdec, hi]; rfl

theorem recordCycles_v0chain {n : Nat} {b : Byte} (hn : n ≠ 0) (hb : b ≠ 0) (fuel : Nat) (t : List Byte) :
    recordCycles 0 (fuel + 1) (List.replicate n 0 ++ [b] ++ t) =
      (2048 * n + 8 * b.toNat) :: recordCycles 0 fuel t := by
  have hwf : (Instr.v0chain n b).wf = true := by simpa [Instr.wf] using ⟨hn, hb⟩
  rw [recordCycles, decodeRecord_v0chain t hwf]

theorem recordCycles_nil (ver : BitVec 2) (fuel : Nat) : recordCycles ver fuel [] = [] := by
  cases fuel <;> rfl

/-- A whole record by itself. -/
theorem recordCycles_of_unit {ver : BitVec 2} {u : RecUnit} (hfits : u.Fits ver) (hu : u ≠ .zero) {fuel : Nat}
    (hfuel : (encodeUnit u).length ≤ fuel) : recordCycles ver fuel (encodeUnit u) = [unitCycles u] := by
  have hpos : 0 < (encodeUnit u).length := by cases u <;> exact Nat.succ_pos _
  obtain ⟨fuel, rfl⟩ := Nat.exists_eq_add_of_le' (hpos.trans_le hfuel)
  have h := recordCycles_encodeUnit hfits hu fuel []
  rwa [List.append_nil, recordCycles_nil] at h

/-- Zero bytes alone are a record that is cut off (R156). -/
theorem recordCycles_zeros (n fuel : Nat) : recordCycles 0 fuel (List.replicate n 0) = [] := by
  have hchain : ∀ m k, decodeChain m (List.replicate k 0) = .error .truncated := by
    intro m k
    induction k generalizing m with
    | zero => rfl
    | succ k ih => exact ih (m + 1)
  cases fuel with
  | zero => rfl
  | succ fuel =>
    cases n with
    | zero => rfl
    | succ n =>
      have hdec : decodeRecord 0 (List.replicate (n + 1) 0) = .error .truncated := hchain 1 n
      rw [recordCycles, hdec]

/-- Every escape of versions 1 and 2 is a record of its own (R88). -/
theorem recordCycles_escapes {ver : BitVec 2} (hver : ver ≠ 0) (k fuel : Nat) (t : List Byte) :
    recordCycles ver (fuel + k) ((List.replicate k (escapeBytes ver)).flatten ++ t) =
      List.replicate k 16777215 ++ recordCycles ver fuel t := by
  induction k with
  | zero => rfl
  | succ k ih =>
    have hescape : escapeBytes ver = encodeUnit (.ext 0xFFFFFF) := if_neg hver
    have hfirst := recordCycles_encodeUnit (u := .ext 0xFFFFFF) hver (by simp) (fuel + k)
      ((List.replicate k (escapeBytes ver)).flatten ++ t)
    rw [← hescape, ih] at hfirst
    rw [List.replicate_succ, List.flatten_cons, List.append_assoc, ← Nat.add_assoc, hfirst]
    rfl

theorem flatten_replicate_length (ver : BitVec 2) (k : Nat) :
    (List.replicate k (escapeBytes ver)).flatten.length = k * (escapeBytes ver).length := by
  simp

/-- The escapes of version 0 are zero bytes (R85). -/
theorem flatten_replicate_escapeBytes_zero (k : Nat) :
    (List.replicate k (escapeBytes 0)).flatten = List.replicate k 0 := by
  have hescape : escapeBytes 0 = List.replicate 1 0 := rfl
  rw [hescape, List.flatten_replicate_replicate, Nat.mul_one]

theorem recordCycles_canonicalBytes_zero (d : Nat) (mark : Bool) {fuel : Nat}
    (hfuel : (canonicalBytes 0 d mark).length ≤ fuel) :
    recordCycles 0 fuel (canonicalBytes 0 d mark) =
      if remainder 0 d = 0 then [] else [2048 * escapes 0 d + roundedCycles (remainder 0 d)] := by
  unfold canonicalBytes at hfuel ⊢
  rw [flatten_replicate_escapeBytes_zero] at hfuel ⊢
  obtain ⟨-, -, hrem, hclose, -⟩ | ⟨v, -, hver, -⟩ | ⟨-, -, hrem, hclose, -⟩ := closing_cases 0 d mark
  · rw [hclose, List.append_nil, recordCycles_zeros, if_pos hrem]
  · exact absurd rfl hver
  · have hbyte := recordByte_ne_zero hrem
    rw [hclose] at hfuel ⊢
    rw [if_neg hrem, ← eight_mul_recordByte_toNat]
    by_cases hk : escapes 0 d = 0
    · rw [hk] at hfuel ⊢
      exact (recordCycles_of_unit (u := .short _) hbyte nofun hfuel).trans (by simp [unitCycles])
    · rw [List.length_append, List.length_singleton] at hfuel
      obtain ⟨fuel, rfl⟩ := Nat.exists_eq_add_of_le' (Nat.le_of_add_left_le hfuel)
      have hchain := recordCycles_v0chain hk hbyte fuel []
      rwa [List.append_nil, recordCycles_nil] at hchain

theorem recordCycles_closingBytes {ver : BitVec 2} (hver : ver ≠ 0) (d : Nat) (mark : Bool) {fuel : Nat}
    (hfuel : (closingBytes ver d mark).length ≤ fuel) :
    recordCycles ver fuel (closingBytes ver d mark) =
      if 2048 ≤ remainder ver d then [remainder ver d]
      else if remainder ver d = 0 then (if 1 ≤ escapes ver d ∨ mark = true then [0] else [])
      else [roundedCycles (remainder ver d)] := by
  obtain ⟨-, hend, hrem, hclose, -⟩ | ⟨v, -, -, hend, -, hval, hclose, -⟩ | ⟨-, hend, hrem, hclose, -⟩ :=
    closing_cases ver d mark
  · have hnone : ¬ (1 ≤ escapes ver d ∨ mark = true) := fun h => hend (.inr ⟨hver, hrem, h⟩)
    rw [hclose, recordCycles_nil, if_neg (by omega), if_pos hrem, if_neg hnone]
  · rw [hclose] at hfuel ⊢
    rw [recordCycles_of_unit (u := .ext v) hver nofun hfuel, unitCycles, hval]
    obtain hbig | ⟨-, hrem, howes⟩ := hend
    · rw [if_pos hbig]
    · rw [if_neg (by omega), if_pos hrem, if_pos howes, hrem]
  · have hsmall : ¬ 2048 ≤ remainder ver d := fun h => hend (.inl h)
    rw [hclose] at hfuel ⊢
    rw [if_neg hsmall, if_neg hrem, ← eight_mul_recordByte_toNat]
    exact recordCycles_of_unit (u := .short _) (recordByte_ne_zero hrem) nofun hfuel

/-- Settles O38. -/
theorem canonicalRecordsReadBack : Obligations.CanonicalRecordsReadBack := by
  intro ver d mark fuel _ hfuel
  by_cases hver : ver = 0
  · subst hver
    exact recordCycles_canonicalBytes_zero d mark hfuel
  · have hk : escapes ver d = d / 16777215 := if_neg hver
    have hr : remainder ver d = d % 16777215 := if_neg hver
    have hesc : (escapeBytes ver).length = 4 := by rw [escapeBytes, if_neg hver]; rfl
    rw [canonicalBytes, List.length_append, flatten_replicate_length, hesc] at hfuel
    obtain ⟨left, rfl⟩ := Nat.exists_eq_add_of_le' (show escapes ver d ≤ fuel by omega)
    rw [if_neg hver, canonicalBytes, recordCycles_escapes hver,
      recordCycles_closingBytes hver d mark (by omega), hk, hr]

end Sys2Proof.Machine
end

section
/-! What ENC leaves after some escapes and after the closing record (O31, O32, O43 to O45; R94, R170 to R177): the
records of one command as one appended run of bytes, one sink write each. -/

namespace Sys2Proof.Machine

/-! ## Runs of records -/

/-- Room for so many bytes in so many records, within this command: capacity, counter and sink (R170, R179,
R180). -/
structure HasRoom (s : State) (bytes records : Nat) : Prop where
  capacity : s.encCount.toNat + bytes ≤ s.arg1.toNat
  counter : SinkRoom s bytes
  sink : SinkAccepts s records

/-- The state after bytes are appended by so many sink writes and counted in `OUT_COUNT` and by ENC (R172). -/
def State.emit (bs : List Byte) (records : Nat) (s : State) : State :=
  { appended s bs records with encCount := s.encCount + BitVec.ofNat 32 bs.length }

/-- The state after k escapes of the version (R171, R173). -/
def State.escaped (k : Nat) (s : State) : State :=
  { s.emit (List.replicate k (escapeBytes s.status.version)).flatten k with
    encRes := s.encRes - BitVec.ofNat 32 (k * escapeCycles s.status.version)
    status := { s.status with ovfMark := escapedMark s.status.version k s.status.ovfMark } }

/-- The state after the pulse is completed by these records (R177). -/
def State.completed (bs : List Byte) (records : Nat) (mark : Bool) (s : State) : State :=
  { appended s bs records with
    encRes := 0
    encCount := 0
    res0 := s.encCount + BitVec.ofNat 32 bs.length
    res1 := 0
    status := { s.status with result := .ok, encPending := false, ovfMark := mark } }

theorem ofNat_length_append (x : Word) (xs ys : List Byte) :
    x + BitVec.ofNat 32 xs.length + BitVec.ofNat 32 ys.length = x + BitVec.ofNat 32 (xs ++ ys).length := by
  rw [BitVec.add_assoc, ← BitVec.ofNat_add, List.length_append]

theorem State.escaped_zero (s : State) : s.escaped 0 = s := by
  simp [State.escaped, State.emit, appended, escapedMark, Memory.append]

theorem escapedMark_add (ver : BitVec 2) (j k : Nat) (mark : Bool) :
    escapedMark ver k (escapedMark ver j mark) = escapedMark ver (j + k) mark := by
  unfold escapedMark
  split_ifs
  · rfl
  · rw [Bool.or_assoc, ← Bool.decide_or]
    congr 2
    exact propext (by omega)

theorem State.escaped_escaped (s : State) (j k : Nat) : (s.escaped j).escaped k = s.escaped (j + k) := by
  simp only [State.escaped, State.emit, appended, State.skipDraws, List.drop_drop, Nat.add_assoc,
    ← Memory.append_append, ofNat_length_append, ← List.flatten_append, List.replicate_append_replicate,
    escapedMark_add, BitVec.sub_sub, ← BitVec.ofNat_add, ← Nat.add_mul]

theorem State.completed_escaped (s : State) (k : Nat) (bs : List Byte) (n : Nat) (mark : Bool) :
    (s.escaped k).completed bs n mark =
      s.completed ((List.replicate k (escapeBytes s.status.version)).flatten ++ bs) (k + n) mark := by
  simp only [State.completed, State.escaped, State.emit, appended, State.skipDraws, List.drop_drop,
    Nat.add_assoc, ← Memory.append_append, ofNat_length_append]

/-! ## One record -/

theorem memWrite_outCount {s : State} {bs : List Byte} (hcount : s.outCount.toNat = s.outImg.len)
    (hdraw : s.upcomingDraw 0 = true) :
    memWrite s.outCount.toNat bs s = .ok (true, { s.skipDraws 1 with outImg := s.outImg.append bs }) := by
  rw [memWrite_append bs hcount, hdraw]; rfl

/-- A record with room is appended and accounted for (R172). -/
theorem encUnit_of_room {u : RecUnit} {s : State} (h : HasRoom s (encodeUnit u).length 1) :
    encUnit u s = encAccount u (s.emit (encodeUnit u) 1) := by
  have hcap := h.capacity
  obtain ⟨hcount, hmax⟩ := h.counter
  have hwrite := memWrite_outCount (bs := encodeUnit u) hcount (h.sink 0 Nat.one_pos)
  simp only [encUnit, if_neg (Nat.not_lt.2 hcap), if_neg (Nat.not_lt.2 hmax), hwrite]
  rfl

/-- An escape with room (R173). -/
theorem encUnit_escapeUnit {s : State} (h : HasRoom s (escapeBytes s.status.version).length 1) :
    encUnit (escapeUnit s.status.version) s = .more (s.escaped 1) := by
  rw [← encodeUnit_escapeUnit] at h
  rw [encUnit_of_room h]
  by_cases hver : s.status.version = 0
  · have hunit : escapeUnit s.status.version = .zero := if_pos hver
    have hmark : escapedMark s.status.version 1 s.status.ovfMark = s.status.ovfMark := if_pos hver
    simp only [State.escaped, hunit, hmark, escapeBytes, escapeCycles, if_pos hver]
    rfl
  · have hunit : escapeUnit s.status.version = .ext 0xFFFFFF := if_neg hver
    have hmark : escapedMark s.status.version 1 s.status.ovfMark = true := by
      rw [escapedMark, if_neg hver]; simp
    simp only [State.escaped, hunit, hmark, escapeBytes, escapeCycles, if_neg hver]
    rfl

theorem encUnit_short {s : State} (b : Byte) (h : HasRoom s 1 1) :
    encUnit (.short b) s = .done (s.completed [b] 1 s.status.ovfMark) := by
  rw [encUnit_of_room (u := .short b) h, encAccount, State.encComplete_eq]; rfl

theorem encUnit_ext {s : State} {v : Value24} (hv : v ≠ 0xFFFFFF) (h : HasRoom s 4 1) :
    encUnit (.ext v) s = .done (s.completed (encodeUnit (.ext v)) 1 false) := by
  rw [encUnit_of_room (u := .ext v) h, encAccount, if_neg hv, State.encComplete_eq]; rfl

theorem encComplete_eq_completed (s : State) : s.encComplete = s.completed [] 0 s.status.ovfMark := by
  simp [State.encComplete_eq, State.completed, appended, Memory.append]

end Sys2Proof.Machine
end

section
/-! Emitting owed records one after the other (O31, O32, O43 to O45; R94, R170 to R177; log 8): first by their
rows, then by ENC_PULSE and ENC_DRAIN. -/

namespace Sys2Proof.Machine

/-! ## Room for the next record -/

theorem HasRoom.mono {s : State} {b b' n n' : Nat} (h : HasRoom s b n) (hb : b' ≤ b) (hn : n' ≤ n) :
    HasRoom s b' n' where
  capacity := (Nat.add_le_add_left hb _).trans h.capacity
  counter := ⟨h.counter.1, (Nat.add_le_add_left hb _).trans h.counter.2⟩
  sink k hk := h.sink k (hk.trans_le hn)

theorem hasRoom_of_canEmit {s : State} {n records : Nat} (h : CanEmit s n) (hsink : SinkAccepts s records) :
    HasRoom s n records :=
  ⟨h.2.2.1, h.2.2.2, hsink⟩

/-- After k escapes the counter has room for the rest (R179). -/
theorem sinkRoom_escaped {s : State} {k b : Nat}
    (h : SinkRoom s (k * (escapeBytes s.status.version).length + b)) : SinkRoom (s.escaped k) b := by
  have hlen := flatten_replicate_length s.status.version k
  obtain ⟨hcount, hmax⟩ := h
  have hmax' : s.outCount.toNat + (k * (escapeBytes s.status.version).length + b) ≤ 4294967295 := hmax
  refine ⟨countsImage_append hcount ?_, ?_⟩
  · rw [hlen]; exact (Nat.add_le_add_left (Nat.le_add_right _ b) _).trans hmax
  · show (s.outCount + BitVec.ofNat 32 _).toNat + b ≤ 4294967295
    rw [hlen, BitVec.toNat_add, BitVec.toNat_ofNat]
    omega

/-- After k escapes the sink takes what it took from the (k+1)st write on (R20). -/
theorem sinkAccepts_escaped {s : State} {k n : Nat} (h : SinkAccepts s (k + n)) :
    SinkAccepts (s.escaped k) n := fun i hi =>
  (s.upcomingDraw_skipDraws k i).trans (h (k + i) (by omega))

/-- After k escapes there is room for the rest (R172). -/
theorem HasRoom.escaped {s : State} {k b n : Nat}
    (h : HasRoom s (k * (escapeBytes s.status.version).length + b) (k + n)) : HasRoom (s.escaped k) b n where
  capacity := by
    have hcap := h.capacity
    have harg : s.arg1.toNat < 4294967296 := s.arg1.isLt
    show (s.encCount + BitVec.ofNat 32 _).toNat + b ≤ s.arg1.toNat
    rw [flatten_replicate_length, BitVec.toNat_add, BitVec.toNat_ofNat]
    omega
  counter := sinkRoom_escaped h.counter
  sink := sinkAccepts_escaped h.sink

theorem State.escaped_encRes_toNat {s : State} {k : Nat}
    (h : k * escapeCycles s.status.version ≤ s.encRes.toNat) :
    (s.escaped k).encRes.toNat = s.encRes.toNat - k * escapeCycles s.status.version := by
  have hlt : s.encRes.toNat < 2 ^ 32 := s.encRes.isLt
  have hk : (BitVec.ofNat 32 (k * escapeCycles s.status.version)).toNat =
      k * escapeCycles s.status.version := Nat.mod_eq_of_lt (by omega)
  show (s.encRes - BitVec.ofNat 32 (k * escapeCycles s.status.version)).toNat = _
  rw [BitVec.toNat_sub_of_le (by rw [BitVec.le_def, hk]; exact h), hk]

/-! ## One row of ENC -/

theorem encRow_eq_some {u : RecUnit} {s : State} (hp : s.status.encPending = true)
    (hu : s.unitOwed = some u) : encRow u s = some (encUnit u s) :=
  if_pos ⟨hp, hu⟩

theorem unitRow_of_unitOwed {u : RecUnit} {s : State} (h : Ready s .writing)
    (hp : s.status.encPending = true) (hu : s.unitOwed = some u) : unitRow u s = (encUnit u s).out := by
  rw [unitRow, streamRow_writing h, encRow_eq_some hp hu]; rfl

theorem unitOwed_of_escapeCycles_le {s : State} (h : escapeCycles s.status.version ≤ s.encRes.toNat) :
    s.unitOwed = some (escapeUnit s.status.version) :=
  encNext_of_escapeCycles_le _ h

theorem encNext_short (ver : BitVec 2) {r : Nat} (mark : Bool) (hr : 1 ≤ r) (hr' : r ≤ 2047) :
    encNext ver r mark = some (.short (recordByte r)) := by
  have hunit : ¬ overflowUnit ver ≤ r := by
    unfold overflowUnit extUnit; split_ifs <;> omega
  rw [encNext, if_neg hunit, if_neg (by omega), if_pos (by omega), shortByte_eq_recordByte]

/-- Settles O43. -/
theorem escapeRowsAreEmitted : Obligations.EscapeRowsAreEmitted := by
  intro s
  have hrow (n : Nat) (hn : (escapeBytes s.status.version).length = n)
      (howed : escapeCycles s.status.version ≤ s.encRes.toNat) (hemit : CanEmit s n)
      (hdraw : s.upcomingDraw 0 = true) :
      unitRow (escapeUnit s.status.version) s = .next (s.escaped 1) := by
    subst hn
    obtain ⟨hready, hp, -, -⟩ := id hemit
    have hsink : SinkAccepts s 1 := fun k hk => by rwa [Nat.lt_one_iff.1 hk]
    rw [unitRow_of_unitOwed hready hp (unitOwed_of_escapeCycles_le howed),
      encUnit_escapeUnit (hasRoom_of_canEmit hemit hsink)]
    rfl
  refine ⟨fun hver howed hemit hdraw => ?_, fun hver howed hemit hdraw => ?_⟩
  · have h := hrow 1 (by rw [escapeBytes, if_pos hver]; rfl) (by rwa [escapeCycles, if_pos hver]) hemit hdraw
    have hmark : escapedMark s.status.version 1 s.status.ovfMark = s.status.ovfMark := if_pos hver
    rw [escapeUnit, if_pos hver] at h
    simp only [State.escaped, hmark, escapeBytes, escapeCycles, if_pos hver] at h
    exact h
  · have h := hrow 4 (by rw [escapeBytes, if_neg hver]; rfl) (by rwa [escapeCycles, if_neg hver]) hemit hdraw
    have hmark : escapedMark s.status.version 1 s.status.ovfMark = true := by
      rw [escapedMark, if_neg hver]; simp
    rw [escapeUnit, if_neg hver] at h
    simp only [State.escaped, hmark, escapeBytes, escapeCycles, if_neg hver] at h
    exact h

/-- Settles O44. -/
theorem extendedRowsAreEmitted : Obligations.ExtendedRowsAreEmitted := by
  intro s i hver hemit hdraw hi
  obtain ⟨hready, hp, -, -⟩ := id hemit
  have hsink : SinkAccepts s 1 := fun k hk => by rwa [Nat.lt_one_iff.1 hk]
  have hlt : s.encRes.toNat < 0xFFFFFF := by
    obtain ⟨-, hlt, -⟩ | ⟨hzero, -⟩ := hi
    · exact hlt
    · rw [hzero]; decide
  obtain ⟨hval, hne⟩ := ofNat24_of_lt hlt
  have howed : s.unitOwed = some (.ext (BitVec.ofNat 24 s.encRes.toNat)) := by
    have hunit : ¬ overflowUnit s.status.version ≤ s.encRes.toNat := by
      rw [overflowUnit, if_neg hver]; exact Nat.not_le.2 hlt
    have hext : 2048 ≤ s.encRes.toNat ∨
        s.encRes.toNat = 0 ∧ s.status.version ≠ 0 ∧ s.status.ovfMark = true := by
      obtain ⟨hbig, -, -⟩ | ⟨hzero, hmark, -⟩ := hi
      · exact .inl hbig
      · exact .inr ⟨by rw [hzero]; rfl, hver, hmark⟩
    rw [State.unitOwed, encNext, if_neg hunit, if_pos hext]
  have hrow : exec i s = unitRow (.ext (BitVec.ofNat 24 s.encRes.toNat)) s := by
    obtain ⟨-, -, rfl⟩ | ⟨hzero, -, rfl⟩ := hi
    · rfl
    · rw [hzero]; rfl
  rw [hrow, unitRow_of_unitOwed hready hp howed, encUnit_ext hne (hasRoom_of_canEmit hemit hsink), encodeUnit,
    hval]
  rfl

/-- A chain's row emits the zero byte owed and goes on (R86, R173). -/
theorem chainRow_encRow_succ {s : State} {n : Nat} (b : Byte) (hver : s.status.version = 0)
    (hp : s.status.encPending = true) (hroom : HasRoom s (n + 1) (n + 1)) (howed : 2048 ≤ s.encRes.toNat) :
    chainRow encRow (n + 1) b s = chainRow encRow n b (s.escaped 1) ∧
      (s.escaped 1).encRes.toNat = s.encRes.toNat - 2048 ∧ HasRoom (s.escaped 1) n n := by
  have hcycles : 1 * escapeCycles s.status.version = 2048 := by rw [escapeCycles, if_pos hver]
  have hlen : (escapeBytes s.status.version).length = 1 := by rw [escapeBytes, if_pos hver]; rfl
  have hunit : escapeUnit s.status.version = .zero := if_pos hver
  have hone : s.unitOwed = some .zero := by
    rw [unitOwed_of_escapeCycles_le (by omega), hunit]
  have hmore : encUnit .zero s = .more (s.escaped 1) := by
    rw [← hunit]
    exact encUnit_escapeUnit (hroom.mono (by omega) (by omega))
  have hsplit : HasRoom s (1 * (escapeBytes s.status.version).length + n) (1 + n) :=
    hroom.mono (by omega) (by omega)
  refine ⟨?_, ?_, hsplit.escaped⟩
  · rw [chainRow, encRow_eq_some hp hone, hmore]
  · rw [State.escaped_encRes_toNat (by omega), hcycles]

/-- A chain's zero bytes are emitted one by one (R86, R173). -/
theorem chainRow_encRow_zeros {s : State} (b : Byte) {n : Nat} (hver : s.status.version = 0)
    (hp : s.status.encPending = true) (hroom : HasRoom s n n) (howed : 2048 * n ≤ s.encRes.toNat) :
    chainRow encRow n b s = encRow (.short b) (s.escaped n) := by
  induction n generalizing s with
  | zero => rw [State.escaped_zero]; rfl
  | succ n ih =>
    obtain ⟨hrow, hres, hroom'⟩ := chainRow_encRow_succ b hver hp hroom (by omega)
    rw [hrow, Nat.add_comm n 1, ← State.escaped_escaped]
    exact ih hver hp hroom' (by omega)

/-- Escapes of version 0, or none: zero bytes of 2048 cycles each that leave the marker (R85, R171). -/
theorem zero_byte_escapes {ver : BitVec 2} {n : Nat} (h : n = 0 ∨ ver = 0) (mark : Bool) :
    (List.replicate n (escapeBytes ver)).flatten = List.replicate n 0 ∧
    n * (escapeBytes ver).length = n ∧ n * escapeCycles ver = 2048 * n ∧ escapedMark ver n mark = mark := by
  obtain rfl | rfl := h
  · refine ⟨rfl, Nat.zero_mul _, Nat.zero_mul _, ?_⟩
    unfold escapedMark; split_ifs <;> simp
  · exact ⟨flatten_replicate_escapeBytes_zero n, Nat.mul_one n, Nat.mul_comm n 2048, rfl⟩

/-- The short part after n escapes of version 0, or alone in any version, closes the pulse (R175). -/
theorem encRow_short_escaped {s : State} {n r : Nat} (hr : 1 ≤ r) (hr' : r ≤ 2047)
    (hres : s.encRes.toNat = 2048 * n + r) (hver : n = 0 ∨ s.status.version = 0)
    (hp : s.status.encPending = true) (hroom : HasRoom s (n + 1) (n + 1)) :
    encRow (.short (recordByte r)) (s.escaped n) =
      some (.done (s.completed (List.replicate n 0 ++ [recordByte r]) (n + 1) s.status.ovfMark)) := by
  obtain ⟨hbytes, hlen, hcycles, hmark⟩ := zero_byte_escapes hver s.status.ovfMark
  have hleft : (s.escaped n).encRes.toNat = r := by
    rw [State.escaped_encRes_toNat (by omega)]; omega
  have howed : (s.escaped n).unitOwed = some (.short (recordByte r)) := by
    rw [State.unitOwed, hleft]; exact encNext_short _ _ hr hr'
  have hsplit : HasRoom s (n * (escapeBytes s.status.version).length + 1) (n + 1) := by rwa [hlen]
  have hmark' : (s.escaped n).status.ovfMark = s.status.ovfMark := hmark
  rw [encRow_eq_some (s := s.escaped n) hp howed, encUnit_short _ hsplit.escaped, State.completed_escaped,
    hbytes, hmark']

/-- Settles O45. -/
theorem shortAndChainRowsAreEmitted : Obligations.ShortAndChainRowsAreEmitted := by
  intro s n r i hr hr' hres hi hemit hsink
  obtain ⟨hready, hp, -, -⟩ := id hemit
  have hroom := hasRoom_of_canEmit hemit hsink
  have hlen : (List.replicate n 0 ++ [recordByte r]).length = n + 1 := by simp
  obtain ⟨rfl, rfl⟩ | ⟨hn, hver, rfl⟩ := hi
  · have h := encRow_short_escaped hr hr' hres (.inl rfl) hp hroom
    rw [State.escaped_zero] at h
    show unitRow (.short (recordByte r)) s = _
    rw [unitRow, streamRow_writing hready, h]; rfl
  · rw [exec_v0chain (by omega), streamRow_writing hready,
      chainRow_encRow_zeros _ hver hp (hroom.mono (by omega) (by omega)) (by omega),
      encRow_short_escaped hr hr' hres (.inr hver) hp hroom, State.completed, hlen]
    rfl

end Sys2Proof.Machine
end

section
/-! ENC_PULSE, ENC_DRAIN and the host loop ENCODE (O31, O32, O37; R94, R165 to R182, R245): k escapes are k turns
of `EncStep`, and what is canonical of the residual they leave is the rest of what was canonical. -/

namespace Sys2Proof.Machine

/-! ## The rest of a pulse -/

theorem escapes_mul_sub_eq_remainder (ver : BitVec 2) (d : Nat) :
    d - escapes ver d * escapeCycles ver = remainder ver d := by
  rw [escapes_eq_div, remainder_eq_mod, Nat.mul_comm, Nat.mod_eq_sub]

/-- Only a closing extended record clears the marker (R173, R174). -/
theorem canonicalMark_eq (ver : BitVec 2) (d : Nat) (mark : Bool) : canonicalMark ver d mark =
    if ver ≠ 0 ∧ endsExtended ver d mark then false else escapedMark ver (escapes ver d) mark := by
  unfold canonicalMark escapedMark
  by_cases hver : ver = 0
  · rw [if_pos hver, if_neg (fun h => h.1 hver), if_pos hver]
  · simp only [hver, ne_eq, not_false_eq_true, true_and, if_false]

theorem escapes_rest {ver : BitVec 2} {d k : Nat} :
    escapes ver (d - k * escapeCycles ver) = escapes ver d - k := by
  rw [escapes_eq_div, escapes_eq_div, Nat.mul_comm, Nat.sub_mul_div]

section
variable {ver : BitVec 2} {d k : Nat} (hk : k ≤ escapes ver d) (mark : Bool)
include hk

theorem mul_escapeCycles_le : k * escapeCycles ver ≤ d := by
  rw [escapes_eq_div] at hk
  exact (Nat.mul_le_mul_right _ hk).trans (Nat.div_mul_le_self ..)

theorem remainder_rest : remainder ver (d - k * escapeCycles ver) = remainder ver d := by
  have hsum : d - k * escapeCycles ver + k * escapeCycles ver = d :=
    Nat.sub_add_cancel (mul_escapeCycles_le hk)
  rw [remainder_eq_mod, remainder_eq_mod]
  conv_rhs => rw [← hsum, Nat.add_mul_mod_self_right]

theorem endsExtended_rest : endsExtended ver (d - k * escapeCycles ver) (escapedMark ver k mark) ↔
    endsExtended ver d mark := by
  unfold endsExtended owesZero
  rw [remainder_rest hk, escapes_rest]
  refine or_congr_right (and_congr_right fun hver => and_congr_right fun _ => ?_)
  have hsome : 1 ≤ escapes ver d ↔ 1 ≤ escapes ver d - k ∨ 1 ≤ k := by omega
  rw [escapedMark, if_neg hver, Bool.or_eq_true, decide_eq_true_eq, hsome]
  tauto

theorem closingBytes_rest : closingBytes ver (d - k * escapeCycles ver) (escapedMark ver k mark) =
    closingBytes ver d mark := by
  simp only [closingBytes, endsExtended_rest hk, remainder_rest hk]

/-- What is canonical after k escapes is the rest of what was canonical (R172, R182). -/
theorem canonicalBytes_rest : (List.replicate k (escapeBytes ver)).flatten ++
    canonicalBytes ver (d - k * escapeCycles ver) (escapedMark ver k mark) = canonicalBytes ver d mark := by
  unfold canonicalBytes
  rw [closingBytes_rest hk, escapes_rest, ← List.append_assoc, ← List.flatten_append,
    List.replicate_append_replicate, Nat.add_sub_cancel' hk]

theorem canonicalRecords_rest :
    k + canonicalRecords ver (d - k * escapeCycles ver) (escapedMark ver k mark) =
      canonicalRecords ver d mark := by
  unfold canonicalRecords
  rw [closingBytes_rest hk, escapes_rest]
  omega

theorem canonicalMark_rest : canonicalMark ver (d - k * escapeCycles ver) (escapedMark ver k mark) =
    canonicalMark ver d mark := by
  simp only [canonicalMark_eq, endsExtended_rest hk, escapes_rest, escapedMark_add, Nat.add_sub_cancel' hk]

end

/-! ## Turns of `EncStep` -/

theorem encTurn_of_unitOwed {s : State} {u : RecUnit} (h : s.unitOwed = some u) : encTurn s = encUnit u s := by
  rw [encTurn, h]

/-- k escapes with room are k turns (R170, R173). -/
theorem encLoop_escaped {s : State} {k : Nat} (fuel : Nat)
    (hk : k ≤ escapes s.status.version s.encRes.toNat)
    (hroom : HasRoom s (k * (escapeBytes s.status.version).length) k) :
    encLoop (fuel + k) s = encLoop fuel (s.escaped k) := by
  induction k generalizing s with
  | zero => rw [State.escaped_zero]; rfl
  | succ k ih =>
    have hone : 1 ≤ escapes s.status.version s.encRes.toNat := by omega
    have hcycles := mul_escapeCycles_le hone
    have hfirst : encTurn s = .more (s.escaped 1) := by
      rw [encTurn_of_unitOwed (unitOwed_of_escapeCycles_le (by omega)),
        encUnit_escapeUnit (hroom.mono (Nat.le_mul_of_pos_left _ (Nat.succ_pos k)) (by omega))]
    have hleft : k ≤ escapes s.status.version (s.escaped 1).encRes.toNat := by
      rw [State.escaped_encRes_toNat hcycles, escapes_rest]; omega
    have hsplit : HasRoom s (1 * (escapeBytes s.status.version).length +
        k * (escapeBytes s.status.version).length) (1 + k) :=
      hroom.mono (by rw [← Nat.add_mul, Nat.add_comm]) (by omega)
    rw [← Nat.add_assoc, encLoop, hfirst, Nat.add_comm k 1, ← State.escaped_escaped]
    exact ih hleft hsplit.escaped

/-- The turn after the last escape closes the pulse (R174 to R177). -/
theorem encTurn_closing {s : State} {d : Nat} {mark : Bool}
    (hres : s.encRes.toNat = remainder s.status.version d)
    (hmark : s.status.ovfMark = escapedMark s.status.version (escapes s.status.version d) mark)
    (hroom : HasRoom s (closingBytes s.status.version d mark).length
      (if closingBytes s.status.version d mark = [] then 0 else 1)) :
    encTurn s = .done (s.completed (closingBytes s.status.version d mark)
      (if closingBytes s.status.version d mark = [] then 0 else 1)
      (canonicalMark s.status.version d mark)) := by
  have howed : s.unitOwed = encNext s.status.version (remainder s.status.version d)
      (escapedMark s.status.version (escapes s.status.version d) mark) := by
    rw [State.unitOwed, hres, hmark]
  obtain ⟨hnext, -, -, hclose, hcanon⟩ | ⟨v, hnext, -, -, hv, -, hclose, hcanon⟩ |
    ⟨hnext, -, -, hclose, hcanon⟩ := closing_cases s.status.version d mark
  · rw [hnext] at howed
    rw [encTurn, howed, hclose, hcanon, ← hmark, if_pos rfl, encComplete_eq_completed]
  · rw [hnext] at howed
    rw [hclose, if_neg (by simp [encodeUnit])] at hroom ⊢
    rw [encTurn_of_unitOwed howed, hcanon, encUnit_ext hv hroom]
  · rw [hnext] at howed
    rw [hclose, if_neg (by simp)] at hroom ⊢
    rw [encTurn_of_unitOwed howed, hcanon, ← hmark, encUnit_short _ hroom]

/-- With room for all of them, `EncStep` emits the canonical records (R94, R170). -/
theorem encLoop_canonical {s : State} {d : Nat} {mark : Bool} (hd : s.encRes.toNat = d)
    (hmark : s.status.ovfMark = mark)
    (hroom : HasRoom s (canonicalBytes s.status.version d mark).length
      (canonicalRecords s.status.version d mark)) :
    encLoop (escapes s.status.version d + 1) s =
      .done (s.completed (canonicalBytes s.status.version d mark)
        (canonicalRecords s.status.version d mark) (canonicalMark s.status.version d mark)) := by
  subst hd hmark
  have hescapes := le_refl (escapes s.status.version s.encRes.toNat)
  have hsplit : HasRoom s (escapes s.status.version s.encRes.toNat * (escapeBytes s.status.version).length +
      (closingBytes s.status.version s.encRes.toNat s.status.ovfMark).length)
      (canonicalRecords s.status.version s.encRes.toNat s.status.ovfMark) := by
    rw [← flatten_replicate_length, ← List.length_append]; exact hroom
  have hres : (s.escaped (escapes s.status.version s.encRes.toNat)).encRes.toNat =
      remainder s.status.version s.encRes.toNat := by
    rw [State.escaped_encRes_toNat (mul_escapeCycles_le hescapes), escapes_mul_sub_eq_remainder]
  have hturn := encTurn_closing (s := s.escaped _) hres rfl hsplit.escaped
  rw [Nat.add_comm, encLoop_escaped 1 hescapes (hroom.mono (by simp [canonicalBytes]) (Nat.le_add_right ..)),
    encLoop, hturn, State.completed_escaped]
  rfl

/-- The closing record is no longer than an escape (R171). -/
theorem closingBytes_length_le (ver : BitVec 2) (d : Nat) (mark : Bool) :
    (closingBytes ver d mark).length ≤ (escapeBytes ver).length := by
  obtain ⟨-, -, -, hclose, -⟩ | ⟨v, -, hver, -, -, -, hclose, -⟩ | ⟨-, -, -, hclose, -⟩ :=
    closing_cases ver d mark
  · rw [hclose]; exact Nat.zero_le _
  · rw [hclose, escapeBytes, if_neg hver]; simp [encodeUnit]
  · rw [hclose, escapeBytes]; split_ifs <;> simp

/-- The capacity stops the pulse before a record that does not fit (R178). -/
theorem encTurn_capacity {s : State} {u : RecUnit} (h : s.unitOwed = some u)
    (hcap : s.arg1.toNat < s.encCount.toNat + (encodeUnit u).length) : encTurn s = .done s.encStop := by
  rw [encTurn_of_unitOwed h, encUnit, if_pos hcap]

/-! ## ENC_PULSE and ENC_DRAIN -/

theorem encStep_of_done {s t : State}
    (h : encLoop (escapes s.status.version s.encRes.toNat + 1) { s with encCount := 0 } = .done t) :
    encStep s = .next t := by
  rw [encStep, overflowUnit_eq_escapeCycles, ← escapes_eq_div, h]; rfl

theorem execEncPulse_of_ready {s : State} (h : Ready s .writing) (hp : s.status.encPending = false) :
    exec .encPulse s = encStep s.loadPulse := by
  show execEncPulse s = _
  rw [execEncPulse, pulseGate_ready h.1 h.2 nofun nofun, if_neg (by simp [hp])]

theorem execEncDrain_of_ready {s : State} (h : Ready s .writing) (hp : s.status.encPending = true) :
    exec .encDrain s = encStep s := by
  show execEncDrain s = _
  rw [execEncDrain, pulseGate_ready h.1 h.2 nofun nofun, if_pos hp]

/-- `EncStep` with room for the canonical records of the residual (R94, R170, R177). -/
theorem encStep_canonical {s : State} {d : Nat} {mark : Bool} (hd : s.encRes.toNat = d)
    (hmark : s.status.ovfMark = mark)
    (hcap : (canonicalBytes s.status.version d mark).length ≤ s.arg1.toNat)
    (hroom : SinkRoom s (canonicalBytes s.status.version d mark).length)
    (hsink : SinkAccepts s (canonicalRecords s.status.version d mark)) :
    encStep s = .next (({ s with encCount := 0 } : State).completed (canonicalBytes s.status.version d mark)
      (canonicalRecords s.status.version d mark) (canonicalMark s.status.version d mark)) := by
  subst hd
  refine encStep_of_done (encLoop_canonical rfl hmark ⟨?_, hroom, hsink⟩)
  exact (Nat.zero_add _).trans_le hcap

/-- A command that starts counting at 0 reports just the bytes it appended (R177). -/
theorem State.completed_fresh (s : State) (bs : List Byte) (n : Nat) (mark : Bool) :
    ({ s with encCount := 0 } : State).completed bs n mark = { appended s bs n with
      encRes := 0
      encCount := 0
      res0 := BitVec.ofNat 32 bs.length
      res1 := 0
      status := { s.status with result := .ok, encPending := false, ovfMark := mark } } := by
  simp only [State.completed, zero_add]
  rfl

/-- Settles O31. -/
theorem encPulseEmitsTheCanonicalRecords : Obligations.EncPulseEmitsTheCanonicalRecords := by
  intro s hready hp hcap hroom hsink
  rw [execEncPulse_of_ready hready hp, encStep_canonical (s := s.loadPulse) rfl rfl hcap hroom hsink,
    State.completed_fresh]
  rfl

/-- Settles O32. -/
theorem encDrainEmitsTheRestOfThePulse : Obligations.EncDrainEmitsTheRestOfThePulse := by
  intro s hready hp hcap hroom hsink
  rw [execEncDrain_of_ready hready hp, encStep_canonical rfl rfl hcap hroom hsink,
    State.completed_fresh]

/-! ## The host loop ENCODE -/

/-- A pulse under way in an open write stream, with counter room and a willing sink for all its records. -/
structure PulseOpen (s : State) : Prop where
  ready : Ready s .writing
  pending : s.status.encPending = true
  room : SinkRoom s (canonicalBytes s.status.version s.encRes.toNat s.status.ovfMark).length
  sink : SinkAccepts s (canonicalRecords s.status.version s.encRes.toNat s.status.ovfMark)

/-- In t the pulse that was under way in s is complete, its canonical records appended (R94, R177). -/
structure PulseDone (s t : State) : Prop where
  result : t.status.result = .ok
  pending : t.status.encPending = false
  residual : t.encRes = 0
  image : t.outImg = s.outImg.append (canonicalBytes s.status.version s.encRes.toNat s.status.ovfMark)
  count : t.outCount.toNat = t.outImg.len
  mark : t.status.ovfMark = canonicalMark s.status.version s.encRes.toNat s.status.ovfMark

theorem PulseOpen.done {s : State} (h : PulseOpen s) (c : Word) : PulseDone s
    (({ s with encCount := c } : State).completed
      (canonicalBytes s.status.version s.encRes.toNat s.status.ovfMark)
      (canonicalRecords s.status.version s.encRes.toNat s.status.ovfMark)
      (canonicalMark s.status.version s.encRes.toNat s.status.ovfMark)) :=
  ⟨rfl, rfl, rfl, rfl, countsImage_append h.room.1 h.room.2, rfl⟩

/-- What completes a pulse depends on its residual, its flags and its image only. -/
theorem PulseDone.of_eq {s s' t : State} (h : PulseDone s t) (himg : s.outImg = s'.outImg)
    (hres : s.encRes = s'.encRes) (hstatus : s.status = s'.status) : PulseDone s' t :=
  ⟨h.result, h.pending, h.residual, himg ▸ hres ▸ hstatus ▸ h.image, h.count, hres ▸ hstatus ▸ h.mark⟩

/-- A capacity stop leaves the pulse under way (R178). -/
theorem PulseOpen.encStop {s : State} (h : PulseOpen s) : PulseOpen s.encStop := ⟨h.ready, rfl, h.room, h.sink⟩

theorem PulseDone.of_encStop {s t : State} (h : PulseDone s.encStop t) : PulseDone s t :=
  ⟨h.result, h.pending, h.residual, h.image, h.count, h.mark⟩

section
variable {s : State} {k : Nat} (hk : k ≤ escapes s.status.version s.encRes.toNat)
include hk

/-- After k escapes the rest of the pulse is under way (R172). -/
theorem PulseOpen.escaped (h : PulseOpen s) : PulseOpen (s.escaped k) := by
  have hbytes := congrArg List.length (canonicalBytes_rest hk s.status.ovfMark)
  have hrecords := canonicalRecords_rest hk s.status.ovfMark
  rw [List.length_append, flatten_replicate_length] at hbytes
  have hroom : SinkRoom (s.escaped k) (canonicalBytes s.status.version
      (s.encRes.toNat - k * escapeCycles s.status.version)
      (escapedMark s.status.version k s.status.ovfMark)).length :=
    sinkRoom_escaped (by rw [hbytes]; exact h.room)
  have hsink : SinkAccepts (s.escaped k) (canonicalRecords s.status.version
      (s.encRes.toNat - k * escapeCycles s.status.version)
      (escapedMark s.status.version k s.status.ovfMark)) :=
    sinkAccepts_escaped (by rw [hrecords]; exact h.sink)
  rw [← State.escaped_encRes_toNat (mul_escapeCycles_le hk)] at hroom hsink
  exact ⟨h.ready, h.pending, hroom, hsink⟩

theorem PulseDone.of_escaped {t : State} (h : PulseDone (s.escaped k) t) : PulseDone s t where
  result := h.result
  pending := h.pending
  residual := h.residual
  image := by
    rw [h.image, ← canonicalBytes_rest hk, Memory.append_append,
      ← State.escaped_encRes_toNat (mul_escapeCycles_le hk)]
    rfl
  count := h.count
  mark := by
    rw [h.mark, ← canonicalMark_rest hk, ← State.escaped_encRes_toNat (mul_escapeCycles_le hk)]
    rfl

end

/-- The closing record, where there is one, is what ENC owes after the escapes (R170). -/
theorem encNext_of_closingBytes {ver : BitVec 2} {d : Nat} {mark : Bool} (h : closingBytes ver d mark ≠ []) :
    ∃ u, encNext ver (remainder ver d) (escapedMark ver (escapes ver d) mark) = some u ∧
      encodeUnit u = closingBytes ver d mark := by
  obtain ⟨-, -, -, hclose, -⟩ | ⟨v, hnext, -, -, -, -, hclose, -⟩ | ⟨hnext, -, -, hclose, -⟩ :=
    closing_cases ver d mark
  · exact absurd hclose h
  · exact ⟨_, hnext, hclose.symm⟩
  · exact ⟨_, hnext, hclose.symm⟩

/-- Where k escapes fit the capacity and the next record does not, the command stops there (R172, R178). -/
theorem encLoop_stop_after {s : State} (h : PulseOpen s) (hzero : s.encCount = 0) {k : Nat} {u : RecUnit}
    (hk : k ≤ escapes s.status.version s.encRes.toNat) (howed : (s.escaped k).unitOwed = some u)
    (hfits : k * (escapeBytes s.status.version).length ≤ s.arg1.toNat)
    (hover : s.arg1.toNat < k * (escapeBytes s.status.version).length + (encodeUnit u).length) :
    encLoop (escapes s.status.version s.encRes.toNat + 1) s = .done (s.escaped k).encStop := by
  have harg : s.arg1.toNat < 4294967296 := s.arg1.isLt
  have hbytes := congrArg List.length (canonicalBytes_rest hk s.status.ovfMark)
  have hrecords := canonicalRecords_rest hk s.status.ovfMark
  rw [List.length_append, flatten_replicate_length] at hbytes
  have hcount : (s.escaped k).encCount.toNat = k * (escapeBytes s.status.version).length := by
    show (s.encCount + BitVec.ofNat 32 _).toNat = _
    rw [hzero, zero_add, flatten_replicate_length, BitVec.toNat_ofNat]
    exact Nat.mod_eq_of_lt (by omega)
  have hcap : s.encCount.toNat + k * (escapeBytes s.status.version).length ≤ s.arg1.toNat := by
    rw [hzero]; exact (Nat.zero_add _).trans_le hfits
  have hall : HasRoom s (k * (escapeBytes s.status.version).length) k :=
    ⟨hcap, ⟨h.room.1, (Nat.add_le_add_left (hbytes ▸ Nat.le_add_right ..) _).trans h.room.2⟩,
      fun i hi => h.sink i (hi.trans_le (hrecords ▸ Nat.le_add_right ..))⟩
  have hfuel : escapes s.status.version s.encRes.toNat + 1 =
      escapes s.status.version s.encRes.toNat - k + 1 + k := by omega
  rw [hfuel, encLoop_escaped _ hk hall, encLoop,
    encTurn_capacity howed (by rw [hcount]; exact hover)]
  rfl

/-- Where the canonical records do not all fit but one escape does, the capacity stops the pulse after some
escapes (R172, R178). -/
theorem encLoop_stops {s : State} (h : PulseOpen s) (hzero : s.encCount = 0)
    (hcap : (escapeBytes s.status.version).length ≤ s.arg1.toNat)
    (hover : s.arg1.toNat < (canonicalBytes s.status.version s.encRes.toNat s.status.ovfMark).length) :
    ∃ k, 1 ≤ k ∧ k ≤ escapes s.status.version s.encRes.toNat ∧
      encLoop (escapes s.status.version s.encRes.toNat + 1) s = .done (s.escaped k).encStop := by
  rw [canonicalBytes, List.length_append, flatten_replicate_length] at hover
  have hclosing := closingBytes_length_le s.status.version s.encRes.toNat s.status.ovfMark
  by_cases hall : escapes s.status.version s.encRes.toNat * (escapeBytes s.status.version).length ≤ s.arg1.toNat
  · have hne : closingBytes s.status.version s.encRes.toNat s.status.ovfMark ≠ [] := by
      intro hnil
      rw [hnil, List.length_nil] at hover
      omega
    have hpos : 1 ≤ escapes s.status.version s.encRes.toNat := by
      refine Nat.one_le_iff_ne_zero.2 fun hnone => ?_
      rw [hnone, Nat.zero_mul] at hover
      omega
    obtain ⟨u, hnext, hu⟩ := encNext_of_closingBytes hne
    have howed : (s.escaped (escapes s.status.version s.encRes.toNat)).unitOwed = some u := by
      rw [← hnext, State.unitOwed, State.escaped_encRes_toNat (mul_escapeCycles_le le_rfl),
        escapes_mul_sub_eq_remainder]
      rfl
    exact ⟨_, hpos, le_rfl, encLoop_stop_after h hzero le_rfl howed hall (by rwa [hu])⟩
  · have hlen : 0 < (escapeBytes s.status.version).length := by unfold escapeBytes; split_ifs <;> simp
    have hlt : s.arg1.toNat / (escapeBytes s.status.version).length <
        escapes s.status.version s.encRes.toNat :=
      (Nat.div_lt_iff_lt_mul hlen).2 (Nat.not_le.1 hall)
    have hleft : escapeCycles s.status.version ≤
        (s.escaped (s.arg1.toNat / (escapeBytes s.status.version).length)).encRes.toNat := by
      rw [State.escaped_encRes_toNat (mul_escapeCycles_le hlt.le)]
      have hnext := mul_escapeCycles_le (Nat.succ_le_of_lt hlt)
      rw [Nat.succ_mul] at hnext
      omega
    refine ⟨_, Nat.div_pos hcap hlen, hlt.le, encLoop_stop_after h hzero hlt.le
      (unitOwed_of_escapeCycles_le hleft) (Nat.div_mul_le_self ..) ?_⟩
    rw [encodeUnit_escapeUnit]
    exact Nat.lt_div_mul_add hlen

/-- One command on a pulse under way completes it, or leaves fewer escapes (R182). -/
theorem encStep_progress {s : State} (h : PulseOpen s)
    (hcap : (escapeBytes s.status.version).length ≤ s.arg1.toNat) :
    ∃ t, encStep s = .next t ∧ (PulseDone s t ∨
      PulseOpen t ∧ t.status.result = .ok ∧ t.status.version = s.status.version ∧
        escapes t.status.version t.encRes.toNat < escapes s.status.version s.encRes.toNat ∧
        ∀ u, PulseDone t u → PulseDone s u) := by
  by_cases hfits : (canonicalBytes s.status.version s.encRes.toNat s.status.ovfMark).length ≤ s.arg1.toNat
  · exact ⟨_, encStep_canonical rfl rfl hfits h.room h.sink, .inl (h.done 0)⟩
  · have hstart : PulseOpen { s with encCount := 0 } := ⟨h.ready, h.pending, h.room, h.sink⟩
    obtain ⟨k, hpos, hk, hstop⟩ := encLoop_stops hstart rfl hcap (Nat.not_le.1 hfits)
    refine ⟨_, encStep_of_done hstop, .inr ⟨(hstart.escaped hk).encStop, rfl, rfl, ?_, fun u hu => ?_⟩⟩
    · have hres := State.escaped_encRes_toNat (s := { s with encCount := 0 }) (mul_escapeCycles_le hk)
      show escapes s.status.version (({ s with encCount := 0 } : State).escaped k).encRes.toNat < _
      rw [hres, escapes_rest]
      exact Nat.sub_lt_self hpos hk
    · exact (hu.of_encStop.of_escaped hk).of_eq rfl rfl rfl

theorem outThen_next (o : Out) : outThen o .next = o := by cases o <;> rfl

theorem runOps_write_cmd (w : Word) (s : State) (h : decodeCommand w ≠ .openRead) :
    runOps [.write 0 w] s = exec (decodeCommand w) s := by
  have hstep : step (s.withNext (.write 0 w)) = exec (decodeCommand w) (s.deliver (decodeCommand w)) :=
    step_write_cmd rfl
  show outThen (step (s.withNext (.write 0 w))) .next = _
  rw [outThen_next, hstep, State.deliver_of_ne s h]

theorem runOps_asmEncDrain (cap : Word) (s : State) :
    runOps (asmEncDrain cap) s = exec .encDrain { s with arg1 := cap } :=
  runOps_write_cmd 5 { s with arg1 := cap } nofun

theorem runOps_asmEncPulse (d cap : Word) (s : State) :
    runOps (asmEncPulse d cap) s = exec .encPulse { s with arg0 := d, arg1 := cap } :=
  runOps_write_cmd 4 { s with arg0 := d, arg1 := cap } nofun

theorem drainLoop_of_not_pending (fuel : Nat) (cap : Word) {s : State} (h : s.status.encPending = false) :
    drainLoop fuel cap s = .next s := by
  cases fuel with
  | zero => rfl
  | succ fuel => rw [drainLoop, if_neg (by simp [h])]

/-- Draining ends with the pulse complete, given more rounds than escapes are left (R182, R245). -/
theorem drainLoop_done {s : State} {cap : Word} {fuel : Nat} (h : PulseOpen s)
    (hresult : s.status.result = .ok) (hcap : (escapeBytes s.status.version).length ≤ cap.toNat)
    (hfuel : escapes s.status.version s.encRes.toNat < fuel) :
    ∃ t, drainLoop fuel cap s = .next t ∧ PulseDone s t := by
  induction fuel generalizing s with
  | zero => exact absurd hfuel (Nat.not_lt_zero _)
  | succ fuel ih =>
    have hstart : PulseOpen { s with arg1 := cap } := ⟨h.ready, h.pending, h.room, h.sink⟩
    obtain ⟨t, hstep, hend⟩ := encStep_progress hstart hcap
    have hround : drainLoop (fuel + 1) cap s = drainLoop fuel cap t := by
      rw [drainLoop, if_pos ⟨h.pending, hresult, h.ready.1⟩, runOps_asmEncDrain,
        execEncDrain_of_ready hstart.ready hstart.pending, hstep]
      rfl
    rw [hround]
    obtain hdone | ⟨hopen, hok, hver, hless, hrest⟩ := hend
    · exact ⟨t, drainLoop_of_not_pending fuel cap hdone.pending, hdone.of_eq rfl rfl rfl⟩
    · obtain ⟨u, hu, hdone⟩ := ih hopen hok (by rw [hver]; exact hcap)
        (Nat.lt_of_lt_of_le hless (Nat.le_of_lt_succ hfuel))
      exact ⟨u, hu, (hrest u hdone).of_eq rfl rfl rfl⟩

/-- Settles O37. -/
theorem encodeLoopAppendsTheWholePulse : Obligations.EncodeLoopAppendsTheWholePulse := by
  intro s d cap hready hp hcap hroom hsink
  have hstart : PulseOpen ({ s with arg0 := d, arg1 := cap } : State).loadPulse := ⟨hready, rfl, hroom, hsink⟩
  obtain ⟨t, hstep, hend⟩ := encStep_progress hstart hcap
  have hloop : encodeMacro (escapes s.status.version d.toNat + 1) d cap s =
      drainLoop (escapes s.status.version d.toNat + 1) cap t := by
    rw [encodeMacro, runOps_asmEncPulse, execEncPulse_of_ready (s := { s with arg0 := d, arg1 := cap }) hready hp,
      hstep]
    rfl
  rw [hloop]
  obtain hdone | ⟨hopen, hok, hver, hless, hrest⟩ := hend
  · obtain ⟨hresult, hpending, hres, himg, hcount, hmark⟩ := id hdone
    exact ⟨t, drainLoop_of_not_pending _ cap hpending, hresult, hpending, hres, himg, hcount, hmark⟩
  · obtain ⟨u, hu, hdone⟩ := drainLoop_done hopen hok (by rw [hver]; exact hcap) (hless.trans (Nat.lt_succ_self _))
    obtain ⟨hresult, hpending, hres, himg, hcount, hmark⟩ := hrest u hdone
    exact ⟨u, hu, hresult, hpending, hres, himg, hcount, hmark⟩

end Sys2Proof.Machine
end

section
/-! Record rows where the stream is not at them (O47; R115, R170, R223; log 8): what a row that runs says of the
bytes at the cursor, and of the residual. -/

namespace Sys2Proof.Machine

/-! ## Rows that run -/

/-- The first byte of the unit at the cursor stands there. -/
theorem hasAt_of_unitAtCursor {s : State} {u : RecUnit} (h : s.unitAtCursor = .ok u) :
    ∃ b bs, encodeUnit u = b :: bs ∧ HasAt s 0 b := by
  obtain ⟨b, bs, hbytes⟩ : ∃ b bs, encodeUnit u = b :: bs := by cases u <;> exact ⟨_, _, rfl⟩
  have hat := (unitAtCursor_eq_ok_iff.1 h).2
  rw [hbytes, List.length_cons, Memory.bytesFrom_succ_eq_cons_iff] at hat
  exact ⟨b, bs, hbytes, hat.1⟩

theorem unitAtCursor_of_decRow {u : RecUnit} {s : State} (h : decRow u s ≠ none) : s.unitAtCursor = .ok u := by
  by_contra hu
  exact h (decRow_eq_none hu)

theorem owed_of_encRow {u : RecUnit} {s : State} (h : encRow u s ≠ none) :
    s.status.encPending = true ∧ s.unitOwed = some u := by
  by_contra hno
  exact h (if_neg hno)

/-- A chain's row runs only if its first unit does. -/
theorem row_zero_of_chainRow {row : RecUnit → State → Option Micro} {n : Nat} {b : Byte} {s : State}
    (h : chainRow row (n + 1) b s ≠ none) : row .zero s ≠ none := by
  intro hnone
  rw [chainRow, hnone] at h
  exact h rfl

/-- A record row is a unit's row or a chain (R83). -/
theorem record_row_cases {i : Instr} (h : ∃ ver, i.inSpace (.unit ver) = true ∨ i.inSpace (.record ver) = true) :
    (∃ u, (∀ s, exec i s = unitRow u s) ∧ ∀ p, encode p i = .bytes (encodeUnit u)) ∨
      ∃ n b, i = .v0chain n b := by
  obtain ⟨ver, h⟩ := h
  cases i with
  | short b => exact .inl ⟨.short b, fun _ => rfl, fun _ => rfl⟩
  | v0esc => exact .inl ⟨.zero, fun _ => rfl, fun _ => rfl⟩
  | v0chain n b => exact .inr ⟨n, b, rfl⟩
  | ext v => exact .inl ⟨.ext v, fun _ => rfl, fun _ => rfl⟩
  | extOvf => exact .inl ⟨.ext 0xFFFFFF, fun _ => rfl, fun _ => rfl⟩
  | extZero => exact .inl ⟨.ext 0, fun _ => rfl, fun _ => rfl⟩
  | _ => simp [Instr.inSpace] at h

/-- Every record row has the gate of the pulse commands. Past it, DEC runs the row only where its first byte
stands at the cursor, and ENC only where a pulse is pending (R83, R115, R170). -/
theorem record_row_eq_streamRow {i : Instr}
    (h : ∃ ver, i.inSpace (.unit ver) = true ∨ i.inSpace (.record ver) = true) :
    ∃ dec enc, (∀ s, exec i s = streamRow dec enc s) ∧
      (∀ s, dec s ≠ none → ∃ b bs, HasAt s 0 b ∧ ∀ p, encode p i = .bytes (b :: bs)) ∧
      ∀ s, enc s ≠ none → s.status.encPending = true := by
  obtain ⟨u, hexec, hcode⟩ | ⟨n, b, rfl⟩ := record_row_cases h
  · refine ⟨decRow u, encRow u, hexec, fun s hs => ?_, fun s hs => (owed_of_encRow hs).1⟩
    obtain ⟨b, bs, hbytes, hat⟩ := hasAt_of_unitAtCursor (unitAtCursor_of_decRow hs)
    exact ⟨b, bs, hat, fun p => by rw [hcode, hbytes]⟩
  · cases n with
    | zero =>
      exact ⟨fun _ => none, fun _ => none, fun _ => rfl, fun _ hs => absurd rfl hs, fun _ hs => absurd rfl hs⟩
    | succ n =>
      refine ⟨_, _, exec_v0chain n.succ_ne_zero b, fun s hs => ?_,
        fun s hs => (owed_of_encRow (row_zero_of_chainRow hs)).1⟩
      have hu := unitAtCursor_of_decRow (row_zero_of_chainRow hs)
      exact ⟨0, List.replicate n 0 ++ [b], (unitAtCursor_eq_zero_iff.1 hu).2, fun _ => rfl⟩

/-! ## Chains that run -/

/-- A chain that DEC runs to its end stands at the cursor (R86, R90). -/
theorem chain_of_chainRow_decRow {s : State} {n m : Nat} {b : Byte} (hlen : s.inImg.len ≤ wordMax)
    (hmax : s.inPos.toNat + m ≤ wordMax) (hacc : s.streamCfg.getLsbD 5 = false → m + n ≤ 2097151)
    (h : chainRow decRow n b (s.afterZeros m) ≠ none) :
    b ≠ 0 ∧ (n ≠ 0 → s.status.version = 0) ∧
      s.inImg.bytesFrom (s.inPos.toNat + m) (n + 1) = List.replicate n 0 ++ [b] := by
  induction n generalizing m with
  | zero =>
    obtain ⟨hb, hat⟩ := unitAtCursor_eq_short_iff.1 (unitAtCursor_of_decRow h)
    exact ⟨hb, fun h0 => absurd rfl h0,
      (Memory.bytesFrom_succ_eq_cons_iff ..).2 ⟨(hasAt_afterZeros b hmax).1 hat, rfl⟩⟩
  | succ n ih =>
    obtain ⟨hver, hat⟩ := unitAtCursor_eq_zero_iff.1 (unitAtCursor_of_decRow (row_zero_of_chainRow h))
    have hzero : HasAt s m 0 := (hasAt_afterZeros 0 hmax).1 hat
    rw [chainRow_decRow_succ (s := s) n b hver hlen hzero (fun h0 => by have := hacc h0; omega)] at h
    obtain ⟨hb, -, hrest⟩ := ih ((Memory.lt_len_of_byte? hzero).trans_le hlen)
      (fun h0 => by have := hacc h0; omega) h
    exact ⟨hb, fun _ => hver, (Memory.bytesFrom_succ_eq_cons_iff ..).2 ⟨hzero, hrest⟩⟩

/-- A SHORT byte is owed for a residual below 2048 that is not zero (R175). -/
theorem of_encNext_short {ver : BitVec 2} {d : Nat} {mark : Bool} {b : Byte}
    (h : encNext ver d mark = some (.short b)) : 1 ≤ d ∧ d ≤ 2047 ∧ b = recordByte d := by
  unfold encNext at h
  split_ifs at h with hunit hver hext hpos
  · cases h
  · cases h
  · cases h
  · cases h; exact ⟨hpos, by omega, shortByte_eq_recordByte d⟩

/-- A chain that ENC runs to its end is what the residual owes (R173, R175). -/
theorem residual_of_chainRow_encRow {s : State} {n : Nat} {b : Byte} (hroom : HasRoom s n n)
    (h : chainRow encRow n b s ≠ none) :
    (n ≠ 0 → s.status.version = 0) ∧
      ∃ r, 1 ≤ r ∧ r ≤ 2047 ∧ s.encRes.toNat = 2048 * n + r ∧ b = recordByte r := by
  induction n generalizing s with
  | zero =>
    obtain ⟨hr, hr', hb⟩ := of_encNext_short (owed_of_encRow h).2
    exact ⟨fun h0 => absurd rfl h0, s.encRes.toNat, hr, hr', by omega, hb⟩
  | succ n ih =>
    obtain ⟨hp, howed⟩ := owed_of_encRow (row_zero_of_chainRow h)
    obtain ⟨hver, hbig⟩ := (overflowUnit_le_of_encNext howed).1 rfl
    obtain ⟨hrow, hres, hroom'⟩ := chainRow_encRow_succ b hver hp hroom hbig
    rw [hrow] at h
    obtain ⟨-, r, hr, hr', hsum, hb⟩ := ih hroom' h
    exact ⟨fun _ => hver, r, hr, hr', by omega, hb⟩

/-! ## Refusals -/

theorem rowOut_of_not {m : Option Micro} {p : Prop} (hp : ¬ p) (h : m ≠ none → p) :
    rowOut m = .refused .notPresented := by
  have hnone : m = none := by
    by_contra hm
    exact hp (h hm)
  rw [hnone]; rfl

/-- A chain's row is refused where its units do not run, and a chain of no zero bytes always (R86). -/
theorem exec_v0chain_refused {n : Nat} {b : Byte} {s : State} {p : Prop} (hp : ¬ (1 ≤ n ∧ p))
    (hready : (Ready s .reading ∧ (n ≠ 0 → chainRow decRow n b s ≠ none → p)) ∨
      (Ready s .writing ∧ (n ≠ 0 → chainRow encRow n b s ≠ none → p))) :
    exec (.v0chain n b) s = .refused .notPresented := by
  by_cases hn : n = 0
  · subst hn
    obtain ⟨hready, -⟩ | ⟨hready, -⟩ := hready
    · exact streamRow_reading hready
    · exact streamRow_writing hready
  · have hp' : ¬ p := fun h => hp ⟨Nat.one_le_iff_ne_zero.2 hn, h⟩
    rw [exec_v0chain hn]
    obtain ⟨hready, h⟩ | ⟨hready, h⟩ := hready
    · rw [streamRow_reading hready]; exact rowOut_of_not hp' (h hn)
    · rw [streamRow_writing hready]; exact rowOut_of_not hp' (h hn)

theorem record_row_outside_stream {i : Instr} (s : State)
    (h : ∃ ver, i.inSpace (.unit ver) = true ∨ i.inSpace (.record ver) = true) :
    (s.status.state = .idle ∨ s.status.state = .closed →
      exec i s = .next { s with status := { s.status with result := .invalidArguments } }) ∧
    (s.status.state = .interrupted →
      exec i s = .next { s with status := { s.status with result := .interrupted } }) ∧
    (s.status.state = .error →
      exec i s = .next { s with status := { s.status with result := .genericFailure } }) ∧
    (s.status.state = .reading ∨ s.status.state = .writing → s.term = true →
      exec i s =
        .next { s with status := { s.status with result := .interrupted, state := .interrupted } }) ∧
    (Ready s .reading → (∀ b, HasAt s 0 b → ∀ p bs, encode p i ≠ .bytes (b :: bs)) →
      exec i s = .refused .notPresented) ∧
    (Ready s .writing → s.status.encPending = false → exec i s = .refused .notPresented) := by
  obtain ⟨dec, enc, hexec, hdec, henc⟩ := record_row_eq_streamRow h
  rw [hexec]
  refine ⟨streamRow_of_mayOpen, streamRow_of_interrupted, streamRow_of_error, streamRow_of_term,
    fun hready hno => ?_, fun hready hp => ?_⟩
  · rw [streamRow_reading hready]
    refine rowOut_of_not (p := ∃ b bs, HasAt s 0 b ∧ ∀ p, encode p i = .bytes (b :: bs)) ?_ (hdec s)
    rintro ⟨b, bs, hat, hcode⟩
    exact hno b hat Params.default bs (hcode _)
  · rw [streamRow_writing hready]
    exact rowOut_of_not (by simp [hp]) (henc s)

theorem unit_row_refused (s : State) (u : RecUnit) :
    (Ready s .reading →
      ¬ (u.toInstr.wf = true ∧ u.toInstr.inSpace (.unit s.status.version) = true ∧
        s.inImg.bytesFrom s.inPos.toNat (encodeUnit u).length = encodeUnit u) →
      exec u.toInstr s = .refused .notPresented) ∧
    (Ready s .writing → encNext s.status.version s.encRes.toNat s.status.ovfMark ≠ some u →
      exec u.toInstr s = .refused .notPresented) := by
  refine ⟨fun hready hno => ?_, fun hready hno => ?_⟩
  · rw [exec_toInstr, unitRow, streamRow_reading hready]
    refine rowOut_of_not hno fun hs => ?_
    obtain ⟨hfits, hbytes⟩ := unitAtCursor_eq_ok_iff.1 (unitAtCursor_of_decRow hs)
    obtain ⟨hwf, hsp⟩ := (u.fits_iff _).1 hfits
    exact ⟨hwf, hsp, hbytes⟩
  · rw [exec_toInstr, unitRow, streamRow_writing hready]
    exact rowOut_of_not hno fun hs => (owed_of_encRow hs).2

/-- Settles O47. -/
theorem rowsOutsideTheirStreamDoNotRun : Obligations.RowsOutsideTheirStreamDoNotRun := by
  refine ⟨fun s i h => record_row_outside_stream s h, unit_row_refused, fun s n b => ⟨?_, ?_, ?_⟩⟩
  · intro hready hlen hfresh hacc hno
    refine exec_v0chain_refused hno (.inl ⟨hready, fun hn hs => ?_⟩)
    rw [chainRow_decRow_of_fresh hfresh] at hs
    obtain ⟨hb, hver, hbytes⟩ := chain_of_chainRow_decRow (m := 0) hlen (Nat.le_of_lt_succ s.inPos.isLt)
      (by simpa using hacc) hs
    exact ⟨hb, hver hn, hbytes⟩
  · intro hready hno
    refine exec_v0chain_refused (fun h => hno h.2) (.inr ⟨hready, fun hn hs => ?_⟩)
    obtain ⟨n, rfl⟩ := Nat.exists_eq_succ_of_ne_zero hn
    exact (owed_of_encRow (row_zero_of_chainRow hs)).2
  · intro hemit hsink hno
    refine exec_v0chain_refused hno (.inr ⟨hemit.1, fun hn hs => ?_⟩)
    obtain ⟨hver, hres⟩ := residual_of_chainRow_encRow (hasRoom_of_canEmit hemit hsink) hs
    exact ⟨hver hn, hres⟩

end Sys2Proof.Machine
end

section
/-! The acceptance table and illegal words (O18, O19; R98, R115, R142): the gates of the stream and pulse commands
in the states they refuse. -/

namespace Sys2Proof.Machine

/-! ## Illegal words -/

/-- Settles O18: the word decodes to itself as an illegal one, and only OPEN_READ is given an attached image. -/
theorem illegalWordChangesOnlyTheResult : Obligations.IllegalWordChangesOnlyTheResult := by
  intro s w rest hw hhost
  have hdec : decodeCommand w = .illegal w := (opcodeMapSelectsCommands w).2.1 hw
  refine ⟨?_, rfl⟩
  rw [step_write_cmd hhost, hdec, State.deliver_of_ne (i := .illegal w) _ nofun]
  rfl

/-! ## The gates where they refuse -/

/-- An OPEN command does its work where a stream may be opened with this configuration word (R45, R115). -/
theorem openGate_eq (work : State → Out) (s : State) : openGate work s =
    if ¬ MayOpen s ∨ ¬ CfgLegal s.arg0 then .next (s.finish .invalidArguments) else work s := by
  obtain ⟨hidle, hclosed, he⟩ | ⟨-, hcfg, he⟩ | ⟨hs, hcfg, he⟩ := openGate_cases (work := work) (s := s) rfl
  · rw [he, if_pos (.inl (not_or.2 ⟨hidle, hclosed⟩))]
  · rw [he, if_pos (.inr (by simp [← cfgValid_iff, hcfg]))]
  · rw [he, if_neg (not_or.2 ⟨not_not.2 hs, not_not.2 ((cfgValid_iff _).1 hcfg)⟩)]

section
variable {home : StreamState} {work : State → Out} {s : State}

theorem pulseGate_of_interrupted (h : s.status.state = .interrupted) :
    pulseGate home work s = .next (s.finish .interrupted) :=
  if_pos h

theorem pulseGate_of_error (h : s.status.state = .error) :
    pulseGate home work s = .next (s.finish .genericFailure) := by
  simp [pulseGate, ended, h]

/-- A pulse command is refused where the stream is neither its own nor held (R146, R167, R168). -/
theorem pulseGate_of_other {st : StreamState} (h : s.status.state = st) (hint : st ≠ .interrupted)
    (herr : st ≠ .error) (hhome : st ≠ home) : pulseGate home work s = .next (s.finish .invalidArguments) := by
  subst h
  simp [pulseGate, ended, hint, herr, hhome]

end

/-! ## Which gate a command has -/

theorem exec_open_eq_openGate {i : Instr} (hi : i ∈ [Instr.openRead, .openWrite]) :
    ∃ work, exec i = openGate work := by
  fin_cases hi
  · exact ⟨_, rfl⟩
  · exact ⟨_, rfl⟩

theorem exec_enc_eq_pulseGate {i : Instr} (hi : i ∈ [Instr.encPulse, .encDrain]) :
    ∃ work, exec i = pulseGate .writing work := by
  fin_cases hi
  · exact ⟨_, rfl⟩
  · exact ⟨_, rfl⟩

theorem exec_pulse_eq_pulseGate {i : Instr} (hi : i ∈ [Instr.recDecode, .encPulse, .encDrain]) :
    ∃ home work, exec i = pulseGate home work := by
  obtain rfl | hi := List.mem_cons.1 hi
  · exact ⟨_, _, rfl⟩
  · exact ⟨_, exec_enc_eq_pulseGate hi⟩

/-- Settles O19, one row of the table after the other. -/
theorem stateTableRefusesByResult : Obligations.StateTableRefusesByResult := by
  refine fun s => ⟨fun hidle hclosed i hi => ?_, fun h i hi => ?_, fun h i hi => ?_, fun h => ?_, fun h i hi => ?_,
    fun h => if_pos h⟩
  · obtain ⟨work, he⟩ := exec_open_eq_openGate hi
    rw [he, openGate_eq, if_pos (.inl (not_or.2 ⟨hidle, hclosed⟩))]; rfl
  · obtain ⟨home, work, he⟩ := exec_pulse_eq_pulseGate hi
    rw [he]; exact pulseGate_of_interrupted h
  · obtain ⟨home, work, he⟩ := exec_pulse_eq_pulseGate hi
    rw [he]; exact pulseGate_of_error h
  · obtain h | h | h := h <;> exact pulseGate_of_other h nofun nofun nofun
  · obtain ⟨work, he⟩ := exec_enc_eq_pulseGate hi
    rw [he]
    obtain h | h | h := h <;> exact pulseGate_of_other h nofun nofun nofun

end Sys2Proof.Machine
end

section
/-! The stream commands, whole (O13, O15 to O17; R120, R123 to R125, R130 to R133). -/

namespace Sys2Proof

/-! ## What the bytes of a header say -/

theorem wordOfLE_four (b0 b1 b2 b3 : Byte) : wordOfLE [b0, b1, b2, b3] =
    BitVec.ofNat 32 (b0.toNat + 256 * b1.toNat + 65536 * b2.toNat + 16777216 * b3.toNat) := by
  rw [wordOfLE]
  congr 1
  simp only [fromLE]
  omega

/-- Which magic these bytes are, where the two differ (R8, R82). -/
theorem familyOf_cases {p : Params} (hp : p.magicA ≠ p.magicB) (magic : List Byte) :
    (magic ≠ p.magicA.toList ∧ magic ≠ p.magicB.toList ∧ familyOf p magic = none) ∨
    (∃ f, (magic = p.magicA.toList ∨ magic = p.magicB.toList) ∧
      (f = .alternate ↔ magic = p.magicB.toList) ∧ familyOf p magic = some f) := by
  unfold familyOf
  split_ifs with hA hB
  · have hB : magic ≠ p.magicB.toList := fun hB => hp (Vector.toList_inj.1 (hA.symm.trans hB))
    exact .inr ⟨.primary, .inl hA, by simp [hB], rfl⟩
  · exact .inr ⟨.alternate, .inr hB, by simp [hB], rfl⟩
  · exact .inl ⟨hA, hB, rfl⟩

end Sys2Proof

namespace Sys2Proof.Machine

/-! ## OPEN_READ -/

/-- The fields an image has in its bytes 12 to 19, with a family for the 12 bytes before (R81). -/
def Memory.headerFields (m : Memory) (f : Family) : Header where
  family := f
  ver := (m.byte? 12).getD 0
  mach := (m.byte? 13).getD 0
  vid := (m.byte? 14).getD 0
  rsv := (m.byte? 15).getD 0
  len := wordOfLE [(m.byte? 16).getD 0, (m.byte? 17).getD 0, (m.byte? 18).getD 0, (m.byte? 19).getD 0]

/-- Below the length the next byte read is the byte there (R15). -/
theorem Memory.bytesFrom_succ_of_lt {m : Memory} {a : Nat} (n : Nat) (h : a < m.len) :
    m.bytesFrom a (n + 1) = (m.byte? a).getD 0 :: m.bytesFrom (a + 1) n := by
  simp [Memory.bytesFrom, Memory.byte?, h]

/-- Reading on past the first k bytes is reading from k bytes further on (R15). -/
theorem Memory.drop_bytesFrom (m : Memory) (a k n : Nat) :
    (m.bytesFrom a (k + n)).drop k = m.bytesFrom (a + k) n := by
  induction k generalizing a with
  | zero => simp
  | succ k ih =>
    by_cases ha : a < m.len
    · rw [Nat.add_right_comm, Memory.bytesFrom_succ_of_lt _ ha, List.drop_succ_cons, ih, Nat.add_assoc,
        Nat.add_comm 1 k]
    · have hnone (i j : Nat) (hi : a ≤ i) : m.bytesFrom i j = [] :=
        List.length_eq_zero_iff.1 (by rw [Memory.bytesFrom_length]; omega)
      rw [hnone _ _ le_rfl, hnone _ _ (Nat.le_add_right _ _), List.drop_nil]

/-- The eight bytes after the magic, where the image holds a whole header (R81). -/
theorem Memory.bytesFrom_twelve_eight {m : Memory} (h : 20 ≤ m.len) : m.bytesFrom 12 8 =
    [(m.byte? 12).getD 0, (m.byte? 13).getD 0, (m.byte? 14).getD 0, (m.byte? 15).getD 0,
      (m.byte? 16).getD 0, (m.byte? 17).getD 0, (m.byte? 18).getD 0, (m.byte? 19).getD 0] := by
  iterate 8 rw [Memory.bytesFrom_succ_of_lt _ (by omega)]
  rfl

/-- The header at the front of the image, from its length, its version and its magic (R82). -/
theorem headerAtFront_eq (s : State) : s.headerAtFront =
    if s.inImg.len < 20 ∨ 2 < ((s.inImg.byte? 12).getD 0).toNat then none
    else (familyOf s.par (s.inImg.bytesFrom 0 12)).map s.inImg.headerFields := by
  have hlen : (s.inImg.bytesFrom 0 20).length < 20 ↔ s.inImg.len < 20 := by
    rw [Memory.bytesFrom_length]; omega
  have hmagic : (s.inImg.bytesFrom 0 20).take 12 = s.inImg.bytesFrom 0 12 := s.inImg.take_bytesFrom 0 12 20
  have hfields : (s.inImg.bytesFrom 0 20).drop 12 = s.inImg.bytesFrom 12 8 := s.inImg.drop_bytesFrom 0 12 8
  unfold State.headerAtFront decodeHeader
  simp only [hlen, hmagic, hfields]
  by_cases hshort : s.inImg.len < 20
  · simp only [hshort, true_or, if_true]
  · rw [Memory.bytesFrom_twelve_eight (Nat.not_lt.1 hshort)]
    simp only [hshort, false_or, if_false]
    cases familyOf s.par (s.inImg.bytesFrom 0 12) with
    | none => exact (ite_self _).symm
    | some f =>
      dsimp only [Option.map_some]
      split_ifs
      · rfl
      · rfl

/-- OPEN_READ rejects the image (R116 to R118): it is short of a header, its magic is neither of the two, or its
version is above 2. -/
abbrev State.HeaderBad (s : State) : Prop :=
  s.inImg.len < 20 ∨ (s.inImg.bytesFrom 0 12 ≠ s.par.magicA.toList ∧ s.inImg.bytesFrom 0 12 ≠ s.par.magicB.toList) ∨
    2 < ((s.inImg.byte? 12).getD 0).toNat

/-- What OPEN_READ finds at the front of the image (R116 to R119). -/
theorem headerAtFront_cases {s : State} (hp : s.par.magicA ≠ s.par.magicB) :
    (s.HeaderBad ∧ s.headerAtFront = none) ∨
    (¬ s.HeaderBad ∧ ∃ f, (f = .alternate ↔ s.inImg.bytesFrom 0 12 = s.par.magicB.toList) ∧
      s.headerAtFront = some (s.inImg.headerFields f)) := by
  rw [headerAtFront_eq]
  split_ifs with hbad
  · exact .inl ⟨by tauto, rfl⟩
  · obtain ⟨hA, hB, hf⟩ | ⟨f, hmagic, hfam, hf⟩ := familyOf_cases hp (s.inImg.bytesFrom 0 12)
    · exact .inl ⟨.inr (.inl ⟨hA, hB⟩), by rw [hf]; rfl⟩
    · exact .inr ⟨by tauto, f, hfam, by rw [hf]; rfl⟩

/-- Settles O13. -/
theorem openReadFollowsItsRule : Obligations.OpenReadFollowsItsRule := by
  intro s hp
  show execOpenRead s = _
  rw [execOpenRead, openGate_eq]
  refine ite_congr rfl (fun _ => rfl) (fun _ => ?_)
  obtain ⟨hbad, hfront⟩ | ⟨hgood, f, hfam, hfront⟩ := headerAtFront_cases hp
  · rw [if_pos hbad, hfront]; rfl
  · rw [if_neg hgood, hfront]
    have hv2 (b : Byte) : (b == 2) = decide (b.toNat = 2) := by
      rw [Bool.beq_eq_decide_eq]; exact decide_eq_decide.2 BitVec.toNat_inj.symm
    simp only [State.acceptHeader, headerInfo_eq, Memory.headerFields, wordOfLE_four, BitVec.ofNat_toNat, hv2,
      ← hfam, Bool.beq_eq_decide_eq]
    rfl

/-! ## OPEN_WRITE -/

theorem cfgVer_toNat (w : Word) : (cfgVer w).toNat = w.toNat % 4 := by
  simp [cfgVer, BitVec.extractLsb'_toNat]

theorem cfgMach_toNat (w : Word) : (cfgMach w).toNat = w.toNat / 4 % 4 := by
  simp [cfgMach, BitVec.extractLsb'_toNat, Nat.shiftRight_eq_div_pow]

theorem cfgVid_eq (w : Word) : cfgVid w = decide (w.toNat / 16 % 2 = 1) := by
  simp [cfgVid, BitVec.getLsbD, Nat.testBit_eq_decide_div_mod_eq]

theorem cfgVer_eq (w : Word) : cfgVer w = BitVec.ofNat 2 (w.toNat % 4) := by
  rw [← cfgVer_toNat, BitVec.ofNat_toNat, BitVec.setWidth_eq]

theorem magicBytes_familyFor (p : Params) (m : BitVec 2) :
    magicBytes p (familyFor m) = (if m = 2 then p.magicB else p.magicA).toList := by
  rw [familyFor]
  split_ifs <;> rfl

/-- The header OPEN_WRITE writes, over the configuration word's value (R123, R124). -/
theorem encodeHeader_headerToWrite (p : Params) (w : Word) :
    encodeHeader p (headerToWrite w) =
      (if w.toNat / 4 % 4 = 2 then p.magicB else p.magicA).toList ++
        [BitVec.ofNat 8 (w.toNat % 4), if w.toNat % 4 = 2 then BitVec.ofNat 8 (w.toNat / 4 % 4) else 0,
          if w.toNat % 4 = 2 then BitVec.ofNat 8 (w.toNat / 16 % 2) else 0, 0, 0, 0, 0, 0] := by
  have hver : cfgVer w = 2 ↔ w.toNat % 4 = 2 := by rw [← cfgVer_toNat, ← BitVec.toNat_inj]; rfl
  have hmach : cfgMach w = 2 ↔ w.toNat / 4 % 4 = 2 := by rw [← cfgMach_toNat, ← BitVec.toNat_inj]; rfl
  have hver8 : (cfgVer w).setWidth 8 = BitVec.ofNat 8 (w.toNat % 4) := by rw [← cfgVer_toNat, BitVec.ofNat_toNat]
  have hmach8 : (cfgMach w).setWidth 8 = BitVec.ofNat 8 (w.toNat / 4 % 4) := by
    rw [← cfgMach_toNat, BitVec.ofNat_toNat]
  have hvid : (if cfgVid w = true then 1 else 0 : Byte) = BitVec.ofNat 8 (w.toNat / 16 % 2) := by
    rw [cfgVid_eq]
    obtain h | h := Nat.mod_two_eq_zero_or_one (w.toNat / 16) <;> simp [h]
  simp only [encodeHeader, headerToWrite, magicBytes_familyFor, ite_and, hver, hmach, hver8, hmach8, hvid,
    List.append_assoc]
  rfl

/-- Settles O15. -/
theorem openWriteFollowsItsRule : Obligations.OpenWriteFollowsItsRule := by
  intro s
  show execOpenWrite s = _
  rw [execOpenWrite, openGate_eq]
  refine ite_congr rfl (fun _ => rfl) (fun _ => ?_)
  rw [memWrite_append _ (show 0 = ({ s with outImg := Memory.empty } : State).outImg.len from rfl)]
  have hdraw : ({ s with outImg := Memory.empty } : State).upcomingDraw 0 = s.upcomingDraw 0 := rfl
  rw [hdraw]
  cases s.upcomingDraw 0 with
  | false => rfl
  | true =>
    rw [encodeHeader_headerToWrite]
    simp only [← cfgVer_eq]
    rfl

/-! ## CLOSE -/

theorem Direction.eq_write_of_ne_read {d : Direction} (h : d ≠ .read) : d = .write := by
  cases d with
  | read => exact absurd rfl h
  | write => rfl

/-- The patch of `HLEN` in a sink that holds a header (R16, R131). -/
theorem memWrite_length {s : State} (v : Nat) (h : 20 ≤ s.outImg.len) : memWrite 16 (leBytes 4 v) s =
    .ok (s.par.sinkSeekable && s.upcomingDraw 0, { s with
      outImg := if s.par.sinkSeekable && s.upcomingDraw 0 then s.outImg.patch 16 (leBytes 4 v) else s.outImg
      }.skipDraws 1) := by
  rw [memWrite_patch (by omega) h, Bool.and_comm]
  split_ifs <;> rfl

/-- Settles O16. -/
theorem closeFollowsItsRule : Obligations.CloseFollowsItsRule := by
  intro s hopen
  show execClose s = _
  unfold execClose
  refine ite_congr rfl (fun _ => rfl) (fun _ => ite_congr rfl (fun _ => rfl) (fun hdir => ?_))
  obtain ⟨hcount, himg⟩ := hopen (Direction.eq_write_of_ne_read hdir)
  have hlength : s.outCount - 20 = BitVec.ofNat 32 (s.outCount.toNat - 20) := by bv_omega
  have hwritten := memWrite_length (s := s.closeWriting) (s.outCount.toNat - 20) himg
  rw [if_neg (Nat.not_lt.2 hcount), hwritten, State.closeWriting, hlength]
  rfl

/-- Settles O17. -/
theorem closeWritesOnlyTheLengthField : Obligations.CloseWritesOnlyTheLengthField := by
  intro s t hwf hopen ht
  obtain ⟨-, rfl⟩ | ⟨-, -, rfl⟩ | ⟨-, hdir, ok, u, hw, rfl⟩ := execClose_cases ht
  · exact ⟨rfl, rfl, fun _ _ => rfl⟩
  · exact ⟨rfl, rfl, fun _ _ => rfl⟩
  · have himg : 20 ≤ s.outImg.len := hopen (Direction.eq_write_of_ne_read hdir)
    obtain ⟨-, rfl⟩ | ⟨-, hend, -⟩ | ⟨-, -, hin, -, rfl⟩ := memWrite_cases hw
    · exact ⟨rfl, rfl, fun _ _ => rfl⟩
    · have hlen : 16 = s.outImg.len := hend
      omega
    · refine ⟨rfl, Memory.patch_len .., fun a ha => ?_⟩
      have hout : ¬ (16 ≤ a ∧ a < 16 + (leBytes 4 (s.outCount.toNat - 20)).length) := by
        rw [leBytes_length]; omega
      exact (Memory.byte?_patch _ hwf hin a).trans (if_neg hout)

end Sys2Proof.Machine
end

section
/-! A refusal leaves no trace (O21; R143, R212): each command that ends with InvalidArguments ended where its checks
refuse it, before any work. -/

namespace Sys2Proof.Machine

/-- If t ended with InvalidArguments, it is s but for `STATUS.RESULT` (R143). -/
def RefusedClean (s t : State) : Prop :=
  t.status.result = .invalidArguments → t = s.finish .invalidArguments

/-- The command ended with another code. -/
def NotRefused (t : State) : Prop := t.status.result ≠ .invalidArguments

section
variable {s t : State}

theorem NotRefused.clean (h : NotRefused t) : RefusedClean s t := fun ht => absurd ht h

theorem RefusedClean.finish (c : ResultCode) : RefusedClean s (s.finish c) := by
  rintro rfl; rfl

/-- A pulse command leaves no trace if its work leaves none. -/
theorem pulseGate_clean {home : StreamState} {work : State → Out}
    (hwork : work s = .next t → RefusedClean s t) (ht : pulseGate home work s = .next t) : RefusedClean s t :=
  pulseGate_relates .finish (NotRefused.clean (t := s.cancel) nofun) hwork ht

end

/-! ## REC_DECODE -/

/-- A state whose cursor is one byte past that of s has fewer bytes left (R15). -/
theorem bytesLeft_lt_of_taken {s t : State} (hlen : s.inImg.len ≤ wordMax) (hlt : s.inPos.toNat < s.inImg.len)
    (himg : t.inImg = s.inImg) (hpos : t.inPos = s.inPos + BitVec.ofNat 32 1) : t.bytesLeft < s.bytesLeft := by
  rw [State.bytesLeft, State.bytesLeft, himg, hpos, inPos_succ_toNat ⟨hlt.le, hlen⟩ hlt]
  omega

theorem decShort_notRefused {under : State → Prop} (b : Byte) (s : State) : (decShort b s).Meets under NotRefused := by
  unfold decShort
  split_ifs <;> exact nofun

/-- A turn of REC_DECODE takes a byte, or the command ends with a code of R148. -/
theorem decTurn_notRefused {s : State} (hlen : s.inImg.len ≤ wordMax) :
    (decTurn s).Meets (fun t => t.inImg.len ≤ wordMax ∧ t.bytesLeft < s.bytesLeft) NotRefused := by
  obtain ⟨-, he⟩ | ⟨-, u, hu, he⟩ | ⟨-, -, he⟩ | ⟨-, -, he⟩ := decTurn_cases s
  · rw [he]; trivial
  · rw [he]
    have hlt := inPos_lt_of_unitAtCursor hu
    cases u with
    | short b => exact decShort_notRefused b s
    | zero =>
      rw [decUnit]
      obtain ⟨-, he⟩ | ⟨-, -, he⟩ | ⟨-, -, he⟩ := decZero_cases s
      · rw [he]; exact ⟨hlen, bytesLeft_lt_of_taken hlen hlt rfl rfl⟩
      · rw [he]; exact nofun
      · rw [he]; exact ⟨hlen, bytesLeft_lt_of_taken hlen hlt rfl rfl⟩
    | ext v => exact nofun
  · rw [he]; exact nofun
  · rw [he]; exact nofun

theorem execRecDecode_clean {s t : State} (hlen : s.inImg.len ≤ wordMax) (ht : execRecDecode s = .next t) :
    RefusedClean s t :=
  pulseGate_clean (fun hwork => NotRefused.clean <|
    (Micro.loop_ends (fun _ _ => rfl) (fun _ => decTurn_notRefused) _ (s := s.beginRecord) hlen
      (Nat.lt_succ_self _)).last_of_out hwork) ht

/-! ## ENC_PULSE and ENC_DRAIN -/

/-- A state whose residual is one escape less than that of s has fewer units left (R171, R173). -/
theorem unitsLeft_lt_of_escape {s t : State} {n : Nat} (hunit : overflowUnit s.status.version = n) (hpos : 0 < n)
    (hle : n ≤ s.encRes.toNat) (hver : t.status.version = s.status.version)
    (hres : t.encRes = s.encRes - BitVec.ofNat 32 n) : t.unitsLeft < s.unitsLeft := by
  have hn : n < 2 ^ 32 := hle.trans_lt s.encRes.isLt
  have hsub : (s.encRes - BitVec.ofNat 32 n).toNat = s.encRes.toNat - n := by
    rw [BitVec.toNat_sub, BitVec.toNat_ofNat]
    omega
  rw [State.unitsLeft, State.unitsLeft, hver, hres, hunit, hsub, Nat.div_eq_sub_div hpos hle]
  exact Nat.lt_succ_self _

/-- An emitted unit takes one escape off the residual, or the pulse is complete (R173 to R175). -/
theorem encAccount_notRefused {u : RecUnit} {s t : State} (hu : s.unitOwed = some u)
    (hver : t.status.version = s.status.version) (hres : t.encRes = s.encRes) :
    (encAccount u t).Meets (fun t' => True ∧ t'.unitsLeft < s.unitsLeft) NotRefused := by
  obtain ⟨hzero, hescape⟩ := overflowUnit_le_of_encNext hu
  cases u with
  | short b => exact nofun
  | zero =>
    obtain ⟨hv, hle⟩ := hzero rfl
    exact ⟨trivial, unitsLeft_lt_of_escape (if_pos hv) (by decide) hle hver (congrArg (· - _) hres)⟩
  | ext v =>
    rw [encAccount]
    split_ifs with hmax
    · obtain ⟨hv, hle⟩ := hescape (congrArg _ hmax)
      exact ⟨trivial, unitsLeft_lt_of_escape (if_neg hv) (by decide) hle hver (congrArg (· - _) hres)⟩
    · exact nofun

/-- A turn of `EncStep` takes an escape off the residual, or the command ends with a code of R177 to R180. -/
theorem encTurn_notRefused (s : State) :
    (encTurn s).Meets (fun t => True ∧ t.unitsLeft < s.unitsLeft) NotRefused := by
  obtain ⟨-, he⟩ | ⟨u, hu, he⟩ := encTurn_cases s
  · rw [he]; exact nofun
  · rw [he]
    obtain ⟨-, he⟩ | ⟨-, -, he⟩ | ⟨-, -, ⟨f, -, he⟩ | ⟨t, -, he⟩ | ⟨t, hw, he⟩⟩ := encUnit_cases u s
    · rw [he]; exact nofun
    · rw [he]; exact nofun
    · rw [he]; trivial
    · rw [he]; exact nofun
    · rw [he]
      obtain ⟨img, draws, drawn, rfl⟩ := memWrite_writes hw
      exact encAccount_notRefused hu rfl rfl

theorem encStep_notRefused {s t : State} (ht : encStep s = .next t) : NotRefused t :=
  (Micro.loop_ends (fun _ _ => rfl) (fun s _ => encTurn_notRefused s) _ (s := { s with encCount := 0 }) trivial
    (Nat.lt_succ_self _)).last_of_out ht

theorem execEncPulse_clean {s t : State} (ht : execEncPulse s = .next t) : RefusedClean s t := by
  refine pulseGate_clean (fun hwork => ?_) ht
  split_ifs at hwork
  · cases hwork; exact .finish _
  · exact (encStep_notRefused hwork).clean

theorem execEncDrain_clean {s t : State} (ht : execEncDrain s = .next t) : RefusedClean s t := by
  refine pulseGate_clean (fun hwork => ?_) ht
  split_ifs at hwork
  · exact (encStep_notRefused hwork).clean
  · cases hwork; exact NotRefused.clean nofun

/-! ## The stream commands and the scaler -/

theorem execOpenRead_clean {s t : State} (ht : execOpenRead s = .next t) : RefusedClean s t := by
  obtain ⟨-, -, rfl⟩ | ⟨-, -, rfl⟩ | ⟨-, -, -, rfl⟩ | ⟨-, -, hd, -, rfl⟩ := execOpenRead_cases ht
  · exact .finish _
  · exact .finish _
  · exact NotRefused.clean nofun
  · exact NotRefused.clean nofun

theorem execOpenWrite_clean {s t : State} (ht : execOpenWrite s = .next t) : RefusedClean s t := by
  obtain ⟨-, -, rfl⟩ | ⟨-, -, rfl⟩ | ⟨-, -, rfl⟩ | ⟨-, -, rfl⟩ := execOpenWrite_cases ht
  · exact .finish _
  · exact .finish _
  · exact NotRefused.clean nofun
  · exact NotRefused.clean nofun

theorem execClose_clean {s t : State} (ht : execClose s = .next t) : RefusedClean s t := by
  obtain ⟨-, rfl⟩ | ⟨-, -, rfl⟩ | ⟨-, -, ok, u, -, rfl⟩ := execClose_cases ht
  · exact .finish _
  · exact NotRefused.clean nofun
  · cases ok <;> exact NotRefused.clean nofun

theorem execScaleCfg_clean {s t : State} (ht : execScaleCfg s = .next t) : RefusedClean s t := by
  unfold execScaleCfg at ht
  split_ifs at ht
  · cases ht; exact .finish _
  · cases ht; exact .finish _
  · cases ht; exact NotRefused.clean nofun

theorem scaleBy_clean {m d : Word} {s t : State} (ht : scaleBy m d s = .next t) : RefusedClean s t := by
  obtain ⟨-, he⟩ | ⟨-, -, he⟩ | ⟨-, -, -, he⟩ | ⟨-, -, -, he⟩ := scaleBy_cases m d s
  · cases he.symm.trans ht; exact .finish _
  · cases he.symm.trans ht
  · cases he.symm.trans ht; exact NotRefused.clean nofun
  · cases he.symm.trans ht; exact NotRefused.clean nofun

/-- Settles O21, command by command. -/
theorem refusalLeavesNoTrace : Obligations.RefusalLeavesNoTrace := by
  intro i s t hi hlen ht
  show RefusedClean s t
  cases i with
  | openRead => exact execOpenRead_clean ht
  | openWrite => exact execOpenWrite_clean ht
  | recDecode => exact execRecDecode_clean hlen ht
  | encPulse => exact execEncPulse_clean ht
  | encDrain => exact execEncDrain_clean ht
  | close => exact execClose_clean ht
  | scaleCfg => exact execScaleCfg_clean ht
  | scaleS2C | scaleC2S => exact scaleBy_clean ht
  | reset => cases ht; exact nofun
  | illegal w => cases ht; exact .finish _
  | short | v0esc | v0chain | ext | extOvf | extZero | hdr => simp [Instr.inSpace] at hi

end Sys2Proof.Machine
end

section
/-! REC_DECODE by what stands at the cursor (O20, O22 to O30; R145 to R157): past its gate the command is the row
of the unit there, or takes zero bytes until the turn that ends it. -/

namespace Sys2Proof

/-! ## Bytes of a record -/

/-- The value of an extended record from its three bytes (R87, R151). -/
theorem value24OfLE_toNat (b1 b2 b3 : Byte) :
    (value24OfLE [b1, b2, b3]).toNat = b1.toNat + 256 * b2.toNat + 65536 * b3.toNat := by
  have hsum : fromLE [b1, b2, b3] = b1.toNat + 256 * (b2.toNat + 256 * (b3.toNat + 256 * 0)) := rfl
  have h1 := b1.isLt
  have h2 := b2.isLt
  have h3 := b3.isLt
  rw [value24OfLE, BitVec.toNat_ofNat, hsum]
  omega

/-- In versions 1 and 2 a zero byte with fewer than three bytes after it is cut off (R87, R156). -/
theorem decodeUnit_truncated {ver : BitVec 2} {t : List Byte} (hver : ver ≠ 0) (ht : t.length < 3) :
    decodeUnit ver (0 :: t) = .error .truncated := by
  match t with
  | [] | [_] | [_, _] => exact if_neg hver
  | _ :: _ :: _ :: _ => simp only [List.length_cons] at ht; omega

/-- Bytes that are no unit of the version are the front of one (R90, R156). -/
theorem decodeUnit_cons_error {ver : BitVec 2} {b : Byte} {t : List Byte} {r : Reject}
    (h : decodeUnit ver (b :: t) = .error r) : r = .truncated := by
  unfold decodeUnit at h
  dsimp only at h
  split_ifs at h
  split at h
  · cases h
  · cases h; rfl

end Sys2Proof

namespace Sys2Proof.Machine

/-! ## Cancelled and framed -/

/-- A pulse command that its state admits is cancelled by `CTRL.TERM` (R147, R169, R223). -/
theorem pulseGate_of_term {home : StreamState} {work : State → Out} {s : State} (hs : s.status.state = home)
    (ht : s.term = true) (hint : home ≠ .interrupted) (herr : home ≠ .error) :
    pulseGate home work s = .next s.cancel := by
  subst hs
  simp [pulseGate, hint, herr, ht]

/-- Settles O20. -/
theorem termCancelsThePulseCommands : Obligations.TermCancelsThePulseCommands := by
  refine fun s ht => ⟨fun hs => pulseGate_of_term hs ht nofun nofun, fun hs i hi => ?_⟩
  obtain ⟨work, he⟩ := exec_enc_eq_pulseGate hi
  rw [he]
  exact pulseGate_of_term hs ht nofun nofun

/-- Settles O30. -/
theorem decoderFrame : Obligations.DecoderFrame := by
  intro s t ht
  obtain ⟨_, _, _, _, _, _, _, -, rfl⟩ := execRecDecode_writes ht
  rfl

/-! ## A unit that is a whole record -/

theorem beginIfFresh_endRecord (s : State) : s.endRecord.beginIfFresh = s.beginRecord := if_pos rfl

theorem exec_recDecode {s : State} (h : Ready s .reading) :
    exec .recDecode s = (decLoop (s.bytesLeft + 1) s.beginRecord).out :=
  pulseGate_ready h.1 h.2 nofun nofun

/-- On a unit that is no escape REC_DECODE does what the unit's row does where no record is open (R148). -/
theorem exec_recDecode_of_unitAtCursor {s : State} {u : RecUnit} (hready : Ready s .reading)
    (h : s.unitAtCursor = .ok u) (hu : u ≠ .zero) : exec .recDecode s = exec u.toInstr s.endRecord := by
  have hcur : s.beginRecord.unitAtCursor = .ok u := h
  rw [exec_recDecode hready, decLoop_of_unitAtCursor hcur hu, exec_toInstr,
    unitRow_of_unitAtCursor (s := s.endRecord) hready h, beginIfFresh_endRecord]

/-- Settles O22. -/
theorem shortRecordDecodes : Obligations.ShortRecordDecodes := by
  intro s b hready hlen hat hb
  have hrow := exec_recDecode_of_unitAtCursor hready (unitAtCursor_eq_short_iff.2 ⟨hb, hat⟩) nofun
  exact ⟨DecWork.idle, hrow.trans (shortRowIsDecoded s.endRecord b hready hlen hat hb)⟩

/-- Settles O23. -/
theorem extendedRecordDecodes : Obligations.ExtendedRecordDecodes := by
  intro s b1 b2 b3 hready hlen hver h0 h1 h2 h3
  have hbytes : s.inImg.bytesFrom s.inPos.toNat 4 = 0 :: leBytes 3 (value24OfLE [b1, b2, b3]).toNat := by
    rw [leBytes_value24OfLE]
    simp only [Memory.bytesFrom_succ_eq_cons_iff]
    exact ⟨h0, h1, h2, h3, rfl⟩
  have hu : s.unitAtCursor = .ok (.ext (value24OfLE [b1, b2, b3])) := unitAtCursor_eq_ok_iff.2 ⟨hver, hbytes⟩
  have hrow := extendedRowsAreDecoded s.endRecord _ hready hlen hver hbytes
  rw [value24OfLE_toNat] at hrow
  refine ⟨DecWork.idle, (exec_recDecode_of_unitAtCursor hready hu nofun).trans (hrow _ ?_)⟩
  obtain ⟨hv, hi⟩ | ⟨hv, hi⟩ | ⟨-, -, hi⟩ := RecUnit.toInstr_ext_cases (value24OfLE [b1, b2, b3])
  · exact .inr (.inl ⟨hi, hv⟩)
  · exact .inr (.inr ⟨hi, hv⟩)
  · exact .inl hi

/-! ## Zero bytes, and the turn that ends the record -/

/-- The next n bytes are zero bytes of one version-0 record, within the accumulator (R148, R157). -/
def TakesZeros (s : State) (n : Nat) : Prop :=
  ∀ k, k < n → s.status.version = 0 ∧ HasAt s k 0 ∧ (s.streamCfg.getLsbD 5 = false → k + 1 ≤ 2097151)

section
variable {s : State} {n : Nat}

theorem TakesZeros.none : TakesZeros s 0 := fun _ hk => absurd hk (Nat.not_lt_zero _)

theorem takesZeros_of_hasAt (hver : s.status.version = 0) (hzeros : ∀ k, k < n → HasAt s k 0)
    (hacc : s.streamCfg.getLsbD 5 = false → n ≤ 2097151) : TakesZeros s n :=
  fun k hk => ⟨hver, hzeros k hk, fun h => (Nat.succ_le_of_lt hk).trans (hacc h)⟩

theorem TakesZeros.le_bytesLeft (h : TakesZeros s n) : n ≤ s.bytesLeft := by
  cases n with
  | zero => exact Nat.zero_le _
  | succ n =>
    obtain ⟨-, hat, -⟩ := h n (Nat.lt_succ_self n)
    have hlt := Memory.lt_len_of_byte? hat
    unfold State.bytesLeft
    omega

theorem beginRecord_eq_afterZeros (s : State) : s.beginRecord = s.afterZeros 0 :=
  (beginIfFresh_endRecord s).symm.trans (beginIfFresh_eq_afterZeros rfl)

/-- Where one more zero byte follows, it is the unit at the cursor after n of them (R85). -/
theorem unitAtCursor_afterZeros_zero (hlen : s.inImg.len ≤ wordMax) (hver : s.status.version = 0)
    (hat : HasAt s n 0) : (s.afterZeros n).unitAtCursor = .ok .zero :=
  have hmax := (Memory.lt_len_of_byte? hat).le.trans hlen
  unitAtCursor_eq_zero_iff.2 ⟨hver, (hasAt_afterZeros 0 hmax).2 hat⟩

/-- Each zero byte is one turn of the loop (R148). -/
theorem decLoop_afterZeros (hlen : s.inImg.len ≤ wordMax) (h : TakesZeros s n) (fuel : Nat) :
    decLoop (fuel + n) (s.afterZeros 0) = decLoop fuel (s.afterZeros n) := by
  induction n generalizing fuel with
  | zero => rfl
  | succ n ih =>
    obtain ⟨hver, hat, hacc⟩ := h n (Nat.lt_succ_self n)
    have hcount : fuel + (n + 1) = fuel + 1 + n := by omega
    rw [hcount, ih (fun k hk => h k (Nat.lt_succ_of_lt hk)), decLoop,
      decTurn_of_unitAtCursor (unitAtCursor_afterZeros_zero hlen hver hat), decUnit, decZero_afterZeros hacc]
    rfl

/-- REC_DECODE takes the zero bytes, and ends as the turn after them does (R148). -/
theorem exec_recDecode_of_done {t : State} (hready : Ready s .reading) (hlen : s.inImg.len ≤ wordMax)
    (h : TakesZeros s n) (ht : decTurn (s.afterZeros n) = .done t) : exec .recDecode s = .next t := by
  obtain ⟨fuel, hfuel⟩ := Nat.exists_eq_add_of_le' h.le_bytesLeft
  rw [exec_recDecode hready, beginRecord_eq_afterZeros, hfuel, Nat.add_right_comm, decLoop_afterZeros hlen h,
    decLoop, ht]
  rfl

/-! ## Chains -/

/-- A chain in either mode (R152, R153). -/
theorem exec_recDecode_chain {b : Byte} (hready : Ready s .reading) (hlen : s.inImg.len ≤ wordMax)
    (hn : 1 ≤ n) (h : TakesZeros s n) (hclose : HasAt s n b) (hb : b ≠ 0) :
    exec .recDecode s = .next { s with
      inPos := s.inPos + BitVec.ofNat 32 (n + 1)
      res0 := BitVec.ofNat 32
        (if s.streamCfg.getLsbD 5 = true then 8 * b.toNat else 2048 * n + 8 * b.toNat)
      res1 := BitVec.ofNat 32 (min (n + 1) 0xFFFFFF + 2 * 16777216)
      dec := DecWork.idle
      status := { s.status with result := .ok } } := by
  have hmax : s.inPos.toNat + n < wordMax := (Memory.lt_len_of_byte? hclose).trans_le hlen
  have hu : (s.afterZeros n).unitAtCursor = .ok (.short b) :=
    unitAtCursor_eq_short_iff.2 ⟨hb, (hasAt_afterZeros b hmax.le).2 hclose⟩
  refine exec_recDecode_of_done hready hlen h ?_
  rw [decTurn_of_unitAtCursor hu, decUnit, decShort_afterZeros b (by omega) hmax]

/-- The zero byte past those the accumulator holds ends the record with the fault (R157). -/
theorem decZero_afterZeros_overLimit (hmode : s.streamCfg.getLsbD 5 = false) (hn : n + 1 = 2097152) :
    decZero (s.afterZeros n) = .done { s with
      inPos := s.inPos + BitVec.ofNat 32 (n + 1)
      dec := DecWork.idle
      status := { s.status with result := .genericFailure, state := .error, fault := true } } := by
  have hsum : (s.afterZeros n).dec.acc = BitVec.ofNat 32 (2048 * n) := if_neg (Bool.eq_false_iff.1 hmode)
  have hacc : (s.afterZeros n).dec.acc.toNat = 2048 * n := by
    rw [hsum, BitVec.toNat_ofNat]
    omega
  obtain ⟨hcfg, -⟩ | ⟨-, -, he⟩ | ⟨-, hfits, -⟩ := decZero_cases (s.afterZeros n)
  · exact absurd (hmode.symm.trans hcfg) nofun
  · rw [he, State.overLimit_eq, BitVec.ofNat_add, ← BitVec.add_assoc]
    rfl
  · rw [hacc, wordMax] at hfits
    omega

end

/-- Settles O24. -/
theorem chainDecodesByAdding : Obligations.ChainDecodesByAdding := by
  intro s n b hready hlen hver hmode hn hacc hzeros hclose hb
  have hrun := exec_recDecode_chain hready hlen hn (takesZeros_of_hasAt hver hzeros fun _ => hacc) hclose hb
  have hunsaturated : min (n + 1) 0xFFFFFF = n + 1 := Nat.min_eq_left (by omega)
  rw [if_neg (Bool.eq_false_iff.1 hmode), hunsaturated] at hrun
  exact ⟨DecWork.idle, hrun⟩

/-- Settles O25. -/
theorem chainDecodesByOverwriting : Obligations.ChainDecodesByOverwriting := by
  intro s n b hready hlen hver hmode hn hzeros hclose hb
  have hacc : s.streamCfg.getLsbD 5 = false → n ≤ 2097151 := fun h => absurd (hmode.symm.trans h) nofun
  have hrun := exec_recDecode_chain hready hlen hn (takesZeros_of_hasAt hver hzeros hacc) hclose hb
  rw [if_pos hmode] at hrun
  exact ⟨DecWork.idle, hrun⟩

/-- Settles O29: the zero bytes before the last one are taken, and the last one faults. -/
theorem accumulatorOverflowFaults : Obligations.AccumulatorOverflowFaults := by
  intro s hready hlen hver hmode hzeros
  obtain ⟨n, hn⟩ : ∃ n, n + 1 = 2097152 := ⟨_, rfl⟩
  have hbefore : TakesZeros s n :=
    takesZeros_of_hasAt hver (fun k hk => hzeros k (by omega)) fun _ => by omega
  have hu := unitAtCursor_afterZeros_zero hlen hver (hzeros n (by omega))
  have hturn := (decTurn_of_unitAtCursor hu).trans (decZero_afterZeros_overLimit hmode hn)
  have hrun := exec_recDecode_of_done hready hlen hbefore hturn
  rw [hn] at hrun
  exact ⟨DecWork.idle, hrun⟩

/-! ## The end of the image -/

section
variable {s : State} {n : Nat}

/-- At the end of the image there is no unit (R150). -/
theorem unitAtCursor_at_end (h : s.inPos.toNat = s.inImg.len) : s.unitAtCursor = .error .empty := by
  have hbytes : s.inImg.bytesFrom s.inPos.toNat 4 = [] :=
    List.length_eq_zero_iff.1 (by rw [Memory.bytesFrom_length]; omega)
  rw [State.unitAtCursor, hbytes, decodeUnit_nil]

theorem unitAtCursor_truncated (hver : s.status.version ≠ 0) (hat : HasAt s 0 0)
    (hend : s.inImg.len < s.inPos.toNat + 4) : s.unitAtCursor = .error .truncated := by
  have hbytes : s.inImg.bytesFrom s.inPos.toNat 4 = 0 :: s.inImg.bytesFrom (s.inPos.toNat + 1) 3 :=
    (Memory.bytesFrom_succ_eq_cons_iff ..).2 ⟨hat, rfl⟩
  rw [State.unitAtCursor, hbytes, decodeUnit_truncated hver (by rw [Memory.bytesFrom_length]; omega)]

/-- Before the end of the image there is a unit, or a truncated one (R90). -/
theorem inPos_eq_of_unitAtCursor_error {r : Reject} (hle : s.inPos.toNat ≤ s.inImg.len)
    (h : s.unitAtCursor = .error r) (hr : r ≠ .truncated) : s.inPos.toNat = s.inImg.len := by
  by_contra hne
  rw [State.unitAtCursor, Memory.bytesFrom_succ_of_lt 3 (by omega)] at h
  split at h
  next => cases h
  next hdec => cases h; exact hr (decodeUnit_cons_error hdec)

/-- The cursor at the end of the image (R156). -/
def State.toEnd (s : State) : State := { s with inPos := BitVec.ofNat 32 s.inImg.len }

theorem State.toEnd_of_inPos_eq (h : s.inPos.toNat = s.inImg.len) : s.toEnd = s := by
  rw [State.toEnd, ← h, BitVec.ofNat_toNat, BitVec.setWidth_eq]

theorem State.toEnd_inPos_toNat (h : s.inImg.len ≤ wordMax) : s.toEnd.inPos.toNat = s.inImg.len :=
  Nat.mod_eq_of_lt (Nat.lt_succ_of_le h)

/-- Where the image ends at a record boundary or inside a record, the turn takes what is left (R150, R156). -/
theorem decTurn_of_end
    (h : s.inPos.toNat = s.inImg.len ∨ s.inPos.toNat ≤ s.inImg.len ∧ s.unitAtCursor = .error .truncated) :
    decTurn s = .done s.toEnd.endOfInput := by
  obtain hend | ⟨hle, hu⟩ := h
  · rw [decTurn, if_neg (by omega), unitAtCursor_at_end hend, State.toEnd_of_inPos_eq hend]
  · rw [decTurn, if_neg (by omega), hu]; rfl

/-- REC_DECODE where the image ends after n zero bytes or inside the extended record at the cursor: what is left
is consumed and counted (R150, R156). -/
theorem exec_recDecode_of_end (hready : Ready s .reading) (hlen : s.inImg.len ≤ wordMax) (h : TakesZeros s n)
    (hend : (s.afterZeros n).inPos.toNat = s.inImg.len ∨
      (s.afterZeros n).inPos.toNat ≤ s.inImg.len ∧ (s.afterZeros n).unitAtCursor = .error .truncated) :
    exec .recDecode s = .next { s with
      inPos := BitVec.ofNat 32 s.inImg.len
      res0 := 0
      res1 := BitVec.ofNat 32 (min (s.inImg.len - s.inPos.toNat) 0xFFFFFF)
      dec := DecWork.idle
      status := { s.status with result := .endOfStream } } := by
  have hcount : (s.afterZeros n).toEnd.consumed = s.inImg.len - s.inPos.toNat :=
    congrArg (· - s.inPos.toNat) (State.toEnd_inPos_toNat (s := s) hlen)
  rw [exec_recDecode_of_done hready hlen h (decTurn_of_end hend), State.endOfInput_eq, recInfo_eq, hcount]
  rfl

/-- REC_DECODE at the end of the image (R150). -/
theorem exec_recDecode_at_end (hready : Ready s .reading) (hend : s.inPos.toNat = s.inImg.len) :
    exec .recDecode s = .next { s with
      res0 := 0
      res1 := 0
      dec := DecWork.idle
      status := { s.status with result := .endOfStream } } := by
  have hlen : s.inImg.len ≤ wordMax := hend ▸ Nat.le_of_lt_succ s.inPos.isLt
  have hpos : (s.afterZeros 0).inPos.toNat = s.inImg.len := by rwa [← beginRecord_eq_afterZeros]
  have hrun := exec_recDecode_of_end hready hlen .none (.inl hpos)
  rwa [← hend, BitVec.ofNat_toNat, BitVec.setWidth_eq, Nat.sub_self] at hrun

end

/-- Settles O26. -/
theorem endOfImageIsEndOfStream : Obligations.EndOfImageIsEndOfStream :=
  fun _ hready hend => ⟨DecWork.idle, exec_recDecode_at_end hready hend⟩

/-- Settles O28: the zero bytes left are taken and the image ends, or the extended record is cut off. -/
theorem truncatedRecordIsEndOfStream : Obligations.TruncatedRecordIsEndOfStream := by
  intro s hready hlen hlt hcut
  obtain ⟨hver, hat, hshort⟩ | ⟨hver, hzeros, hacc⟩ := hcut
  · have hu : s.beginRecord.unitAtCursor = .error .truncated := unitAtCursor_truncated hver hat hshort
    have hpos : s.beginRecord.inPos.toNat ≤ s.inImg.len := hlt.le
    rw [beginRecord_eq_afterZeros] at hu hpos
    exact ⟨DecWork.idle, exec_recDecode_of_end hready hlen .none (.inr ⟨hpos, hu⟩)⟩
  · have hleft : s.inPos.toNat + s.bytesLeft = s.inImg.len := Nat.add_sub_of_le hlt.le
    have htaken : TakesZeros s s.bytesLeft :=
      takesZeros_of_hasAt hver (fun k hk => hzeros k (by omega)) hacc
    have hpos : (s.afterZeros s.bytesLeft).inPos.toNat = s.inImg.len := by
      rw [afterZeros_inPos_toNat (hleft ▸ hlen), hleft]
    exact ⟨DecWork.idle, exec_recDecode_of_end hready hlen htaken (.inl hpos)⟩

/-! ## After EndOfStream -/

/-- What REC_DECODE leaves when it ends with EndOfStream (R150, R155, R156). -/
structure StreamEnded (t : State) : Prop where
  cursor : t.inPos.toNat = t.inImg.len
  ready : Ready t .reading
  res0 : t.res0 = 0
  dec : t.dec = DecWork.idle
  result : t.status.result = .endOfStream

/-- Inside REC_DECODE the stream is in READING with `TERM` clear, and 32 bits count the image's bytes (R148). -/
def ReadsOn (s : State) : Prop := Ready s .reading ∧ s.inImg.len ≤ wordMax

theorem StreamEnded.of_endOfInput {s : State} (hready : Ready s .reading) (hend : s.inPos.toNat = s.inImg.len) :
    StreamEnded s.endOfInput :=
  ⟨hend, hready, rfl, rfl, rfl⟩

/-- A unit at the cursor leaves the record open with fewer bytes left, or ends the command with another code than
EndOfStream (R149 to R153, R157). -/
theorem decUnit_readsOn {s : State} {u : RecUnit} (h : ReadsOn s) (hu : s.unitAtCursor = .ok u) :
    (decUnit u s).Meets (fun t => ReadsOn t ∧ t.bytesLeft < s.bytesLeft)
      (fun t => t.status.result ≠ .endOfStream) := by
  have hlt := inPos_lt_of_unitAtCursor hu
  cases u with
  | short b => rw [decUnit, decShort_eq]; exact nofun
  | zero =>
    rw [decUnit]
    obtain ⟨-, he⟩ | ⟨-, -, he⟩ | ⟨-, -, he⟩ := decZero_cases s
    · rw [he]; exact ⟨h, bytesLeft_lt_of_taken h.2 hlt rfl rfl⟩
    · rw [he]; exact nofun
    · rw [he]; exact ⟨h, bytesLeft_lt_of_taken h.2 hlt rfl rfl⟩
  | ext v => exact nofun

/-- The turns that end with EndOfStream leave the cursor at the end of the image (R150, R156). -/
theorem decTurn_streamEnded {s : State} (h : ReadsOn s) :
    (decTurn s).Meets (fun t => ReadsOn t ∧ t.bytesLeft < s.bytesLeft)
      (fun t => t.status.result = .endOfStream → StreamEnded t) := by
  obtain ⟨-, he⟩ | ⟨-, u, hu, he⟩ | ⟨-, -, he⟩ | ⟨hle, ⟨r, hr, hu⟩, he⟩ := decTurn_cases s
  · rw [he]; trivial
  · rw [he]; exact (decUnit_readsOn h hu).imp (fun _ => id) fun _ hne heos => absurd heos hne
  · rw [he]; exact fun _ => .of_endOfInput (s := s.toEnd) h.1 (State.toEnd_inPos_toNat h.2)
  · rw [he]; exact fun _ => .of_endOfInput h.1 (inPos_eq_of_unitAtCursor_error hle hu hr)

/-- After EndOfStream another REC_DECODE changes at most `RES1` (R155). -/
theorem StreamEnded.exec_recDecode {t : State} (h : StreamEnded t) :
    exec .recDecode t = .next { t with res1 := 0 } := by
  have hsame : { t with
      res0 := 0, dec := DecWork.idle, status := { t.status with result := .endOfStream } } = t := by
    rw [← h.res0, ← h.dec, ← h.result]
  exact (exec_recDecode_at_end h.ready h.cursor).trans
    (congrArg (fun u : State => (.next { u with res1 := 0 } : Out)) hsame)

/-- Settles O27. -/
theorem endOfStreamPersists : Obligations.EndOfStreamPersists := by
  intro s t hready hlen ht heos
  rw [exec_recDecode hready] at ht
  have hended : StreamEnded t :=
    (Micro.loop_ends (fun _ _ => rfl) (fun _ => decTurn_streamEnded) _ (s := s.beginRecord) ⟨hready, hlen⟩
      (Nat.lt_succ_self _)).last_of_out ht heos
  exact ⟨hended.cursor, hended.ready.1, hended.exec_recDecode⟩

end Sys2Proof.Machine
end

section
/-! Encoder commands that end early (O33 to O35, O46; R167, R168, R172, R178 to R180; log 8, log 9): the three ways
in which an owed record stops, as a row and after some escapes of one command. -/

namespace Sys2Proof.Machine

/-! ## A record that is not emitted -/

section
variable {u : RecUnit} {s : State}

theorem encUnit_of_overCapacity (hcap : s.arg1.toNat < s.encCount.toNat + (encodeUnit u).length) :
    encUnit u s = .done s.encStop :=
  if_pos hcap

variable (hfits : s.encCount.toNat + (encodeUnit u).length ≤ s.arg1.toNat)
include hfits

theorem encUnit_of_overCount (hcount : wordMax < s.outCount.toNat + (encodeUnit u).length) :
    encUnit u s = .done s.encOverLimit := by
  simp only [encUnit, if_neg (Nat.not_lt.2 hfits), if_pos hcount]

theorem encUnit_of_sinkRefuses (hroom : SinkRoom s (encodeUnit u).length) (hdraw : s.upcomingDraw 0 = false) :
    encUnit u s = .done (s.skipDraws 1).encSinkFailed := by
  obtain ⟨hcount, hmax⟩ := hroom
  have hwrite : memWrite s.outCount.toNat (encodeUnit u) s = .ok (false, s.skipDraws 1) := by
    rw [memWrite_append _ hcount, hdraw]; rfl
  simp only [encUnit, if_neg (Nat.not_lt.2 hfits), if_neg (Nat.not_lt.2 hmax), hwrite]
  rfl

end

/-! ## Rows -/

/-- An owed row that ends the command, alone or as the first zero byte of a chain (R86, R170). -/
theorem exec_owedRow_of_done {s t : State} {u : RecUnit} {i : Instr}
    (hi : i = u.toInstr ∨ (u = .zero ∧ ∃ n b, 1 ≤ n ∧ i = .v0chain n b)) (hready : Ready s .writing)
    (hp : s.status.encPending = true) (howed : s.unitOwed = some u) (hdone : encUnit u s = .done t) :
    exec i s = .next t := by
  obtain rfl | ⟨rfl, n, b, hn, rfl⟩ := hi
  · rw [exec_toInstr, unitRow_of_unitOwed hready hp howed, hdone]; rfl
  · obtain ⟨m, rfl⟩ := Nat.exists_eq_add_of_le' hn
    rw [exec_v0chain m.succ_ne_zero, streamRow_writing hready, chainRow, encRow_eq_some hp howed, hdone]; rfl

/-- A stop leaves a pending pulse as it is (R178). -/
theorem State.encStop_of_pending {s : State} (hp : s.status.encPending = true) : s.encStop = { s with
    res0 := s.encCount, res1 := s.encRes, encCount := 0
    status := { s.status with result := .ok } } := by
  rw [State.encStop_eq, ← hp]

/-- Settles O46. -/
theorem owedRowStopsOrFails : Obligations.OwedRowStopsOrFails := by
  intro s u i hi hready hp howed
  have hrow {t : State} (hdone : encUnit u s = .done t) : exec i s = .next t :=
    exec_owedRow_of_done hi hready hp howed hdone
  refine ⟨fun hcap => ?_, fun hfits hcount => ?_, fun hfits hroom hdraw => ?_⟩
  · rw [hrow (encUnit_of_overCapacity hcap), State.encStop_of_pending hp]
  · exact hrow (encUnit_of_overCount hfits hcount)
  · exact hrow (encUnit_of_sinkRefuses hfits hroom hdraw)

/-! ## ENC_PULSE and ENC_DRAIN on a pulse -/

/-- Settles O34. -/
theorem pendingDecidesPulseAndDrain : Obligations.PendingDecidesPulseAndDrain := by
  intro s hready
  refine ⟨fun hp => ?_, fun hp => ?_⟩
  · show execEncPulse s = _
    rw [execEncPulse, pulseGate_ready hready.1 hready.2 nofun nofun, if_pos hp]; rfl
  · show execEncDrain s = _
    rw [execEncDrain, pulseGate_ready hready.1 hready.2 nofun nofun, if_neg (by simp [hp])]; rfl

/-- The state in which `EncStep` takes its first turn on a pulse of d cycles (R167, R168, R170). -/
def State.startPulse (d : Word) (s : State) : State :=
  { { s with encRes := d }.setPending true with encCount := 0 }

/-- The command starts `EncStep` on d cycles: ENC_PULSE on its operand, ENC_DRAIN on the residual (R167, R168). -/
abbrev StartsPulse (s : State) (i : Instr) (d : Word) : Prop :=
  (i = .encPulse ∧ s.status.encPending = false ∧ d = s.arg0) ∨
    (i = .encDrain ∧ s.status.encPending = true ∧ d = s.encRes)

theorem State.startPulse_of_pending {s : State} (hp : s.status.encPending = true) :
    s.startPulse s.encRes = { s with encCount := 0 } := by
  rw [State.startPulse, State.setPending, ← hp]

section
variable {s : State} {i : Instr} {d : Word} {k : Nat}

theorem exec_of_startsPulse {t : State} (hready : Ready s .writing) (hi : StartsPulse s i d)
    (hdone : encLoop (escapes s.status.version d.toNat + 1) (s.startPulse d) = .done t) : exec i s = .next t := by
  obtain ⟨rfl, hp, rfl⟩ | ⟨rfl, hp, rfl⟩ := hi
  · rw [execEncPulse_of_ready hready hp]
    exact encStep_of_done hdone
  · rw [State.startPulse_of_pending hp] at hdone
    rw [execEncDrain_of_ready hready hp, encStep_of_done hdone]

/-- A command that ends with the record after k escapes (R172). -/
theorem exec_of_done_after {t : State} {u : RecUnit} (hready : Ready s .writing) (hi : StartsPulse s i d)
    (hk : k ≤ escapes s.status.version d.toNat)
    (hnext : encNext s.status.version (d.toNat - k * escapeCycles s.status.version)
      (escapedMark s.status.version k s.status.ovfMark) = some u)
    (hroom : 1 ≤ k → HasRoom (s.startPulse d) (k * (escapeBytes s.status.version).length) k)
    (hdone : encUnit u ((s.startPulse d).escaped k) = .done t) : exec i s = .next t := by
  refine exec_of_startsPulse hready hi ?_
  have howed : ((s.startPulse d).escaped k).unitOwed = some u := by
    rw [State.unitOwed, State.escaped_encRes_toNat (s := s.startPulse d) (mul_escapeCycles_le hk)]
    exact hnext
  have hfuel : escapes s.status.version d.toNat + 1 = escapes s.status.version d.toNat - k + 1 + k := by omega
  have hescapes (fuel : Nat) : encLoop (fuel + k) (s.startPulse d) = encLoop fuel ((s.startPulse d).escaped k) := by
    obtain rfl | hpos := Nat.eq_zero_or_pos k
    · rw [State.escaped_zero]; rfl
    · exact encLoop_escaped fuel hk (hroom hpos)
  rw [hfuel, hescapes, encLoop, encTurn_of_unitOwed howed, hdone]; rfl

/-- What k escapes leave of the pulse, field by field (R171 to R173). -/
theorem State.startPulse_escaped (hk : k ≤ escapes s.status.version d.toNat) : (s.startPulse d).escaped k =
    { appended s (List.replicate k (escapeBytes s.status.version)).flatten k with
      encRes := BitVec.ofNat 32 (d.toNat - k * escapeCycles s.status.version)
      encCount := BitVec.ofNat 32 (List.replicate k (escapeBytes s.status.version)).flatten.length
      status := { s.status with
        encPending := true, ovfMark := escapedMark s.status.version k s.status.ovfMark } } := by
  have hres : d - BitVec.ofNat 32 (k * escapeCycles s.status.version) =
      BitVec.ofNat 32 (d.toNat - k * escapeCycles s.status.version) := by
    have hleft := State.escaped_encRes_toNat (s := s.startPulse d) (mul_escapeCycles_le hk)
    exact BitVec.eq_of_toNat_eq (hleft.trans (Nat.mod_eq_of_lt ((Nat.sub_le ..).trans_lt d.isLt)).symm)
  rw [← hres, ← zero_add (BitVec.ofNat 32 (List.replicate k (escapeBytes s.status.version)).flatten.length)]
  rfl

/-- ENC has counted just the escapes (R170). -/
theorem State.startPulse_escaped_encCount (hfits : k * (escapeBytes s.status.version).length ≤ s.arg1.toNat) :
    ((s.startPulse d).escaped k).encCount.toNat = k * (escapeBytes s.status.version).length := by
  have harg : s.arg1.toNat < 2 ^ 32 := s.arg1.isLt
  show (0 + BitVec.ofNat 32 (List.replicate k (escapeBytes s.status.version)).flatten.length : Word).toNat = _
  rw [flatten_replicate_length, zero_add, BitVec.toNat_ofNat]
  exact Nat.mod_eq_of_lt (hfits.trans_lt harg)

/-- `OUT_COUNT` has counted the escapes, where there are any within its limit (R179). -/
theorem State.startPulse_escaped_outCount
    (hroom : 1 ≤ k → SinkRoom s (k * (escapeBytes s.status.version).length)) :
    ((s.startPulse d).escaped k).outCount.toNat =
      s.outCount.toNat + k * (escapeBytes s.status.version).length := by
  obtain rfl | hpos := Nat.eq_zero_or_pos k
  · rw [State.escaped_zero, Nat.zero_mul]; rfl
  · have hmax : s.outCount.toNat + k * (escapeBytes s.status.version).length ≤ 4294967295 := (hroom hpos).2
    show (s.outCount + BitVec.ofNat 32 (List.replicate k (escapeBytes s.status.version)).flatten.length).toNat = _
    rw [flatten_replicate_length, BitVec.toNat_add, BitVec.toNat_ofNat]
    omega

/-- Settles O35. -/
theorem firstRecordFailuresKeepTheResidual : Obligations.FirstRecordFailuresKeepTheResidual := by
  intro s i d k u hready hi hk emitted rest mark hnext hfits hroom hsink
  have hlen : emitted.length = k * (escapeBytes s.status.version).length := flatten_replicate_length ..
  rw [hlen] at hfits hroom ⊢
  have hescapes (hpos : 1 ≤ k) : HasRoom (s.startPulse d) (k * (escapeBytes s.status.version).length) k :=
    ⟨(Nat.zero_add _).trans_le ((Nat.le_add_right ..).trans hfits), hroom hpos, hsink⟩
  have hcap : ((s.startPulse d).escaped k).encCount.toNat + (encodeUnit u).length ≤ s.arg1.toNat := by
    rwa [State.startPulse_escaped_encCount ((Nat.le_add_right ..).trans hfits)]
  have hends {t : State} (hdone : encUnit u ((s.startPulse d).escaped k) = .done t) : exec i s = .next t :=
    exec_of_done_after hready hi hk hnext hescapes hdone
  refine ⟨fun hcount => ?_, fun hroom' hdraw => ?_⟩
  · rw [← State.startPulse_escaped_outCount (d := d) hroom] at hcount
    rw [hends (encUnit_of_overCount hcap hcount), State.startPulse_escaped hk, ← hlen]
    rfl
  · have hdraw' : ((s.startPulse d).escaped k).upcomingDraw 0 = false :=
      (s.upcomingDraw_skipDraws k 0).trans hdraw
    rw [hends (encUnit_of_sinkRefuses hcap (sinkRoom_escaped (s := s.startPulse d) hroom') hdraw'),
      State.startPulse_escaped hk, ← hlen]
    simp only [State.encSinkFailed_eq, appended, State.skipDraws, List.drop_drop]
    rfl

end

/-! ## Where the capacity stops a pulse -/

/-- A capacity below the canonical records of a pulse holds some of its escapes, and not the record after them
(R94, R172). -/
theorem exists_first_misfit {ver : BitVec 2} {d c : Nat} {mark : Bool}
    (hover : c < (canonicalBytes ver d mark).length) :
    ∃ k u, k ≤ escapes ver d ∧ k * (escapeBytes ver).length ≤ c ∧
      encNext ver (d - k * escapeCycles ver) (escapedMark ver k mark) = some u ∧
      c < k * (escapeBytes ver).length + (encodeUnit u).length := by
  rw [canonicalBytes, List.length_append, flatten_replicate_length] at hover
  by_cases hall : escapes ver d * (escapeBytes ver).length ≤ c
  · have hne : closingBytes ver d mark ≠ [] := by
      intro hnil
      rw [hnil, List.length_nil] at hover
      omega
    obtain ⟨u, hnext, hu⟩ := encNext_of_closingBytes hne
    rw [← escapes_mul_sub_eq_remainder] at hnext
    exact ⟨_, u, le_rfl, hall, hnext, by rwa [hu]⟩
  · have hlen : 0 < (escapeBytes ver).length := by unfold escapeBytes; split_ifs <;> simp
    have hlt : c / (escapeBytes ver).length < escapes ver d :=
      (Nat.div_lt_iff_lt_mul hlen).2 (Nat.not_le.1 hall)
    have hleft := mul_escapeCycles_le (Nat.succ_le_of_lt hlt)
    rw [Nat.succ_mul] at hleft
    refine ⟨_, escapeUnit ver, hlt.le, Nat.div_mul_le_self .., encNext_of_escapeCycles_le _ (by omega), ?_⟩
    rw [encodeUnit_escapeUnit]
    exact Nat.lt_div_mul_add hlen

/-- Room for the canonical records is room for some of the escapes they begin with (R94). -/
theorem hasRoom_escapes {s : State} {d : Word} {k : Nat} (hk : k ≤ escapes s.status.version d.toNat)
    (hfits : k * (escapeBytes s.status.version).length ≤ s.arg1.toNat)
    (hroom : SinkRoom s (canonicalBytes s.status.version d.toNat s.status.ovfMark).length)
    (hsink : SinkAccepts s (canonicalRecords s.status.version d.toNat s.status.ovfMark)) :
    HasRoom (s.startPulse d) (k * (escapeBytes s.status.version).length) k where
  capacity := (Nat.zero_add _).trans_le hfits
  counter := by
    rw [← canonicalBytes_rest hk, List.length_append, flatten_replicate_length] at hroom
    exact ⟨hroom.1, (Nat.add_le_add_left (Nat.le_add_right ..) _).trans hroom.2⟩
  sink j hj := hsink j (hj.trans_le (canonicalRecords_rest hk s.status.ovfMark ▸ Nat.le_add_right ..))

/-- Settles O33: either all canonical records fit, or the command stops after the escapes that do. -/
theorem capacityStopsAtARecordBoundary : Obligations.CapacityStopsAtARecordBoundary := by
  intro s i d hready hi hroom hsink
  by_cases hcap : (canonicalBytes s.status.version d.toNat s.status.ovfMark).length ≤ s.arg1.toNat
  · have hall : HasRoom (s.startPulse d) _ _ := ⟨(Nat.zero_add _).trans_le hcap, hroom, hsink⟩
    refine ⟨_, canonicalRecords s.status.version d.toNat s.status.ovfMark, 0, false,
      canonicalMark s.status.version d.toNat s.status.ovfMark, ?_, List.append_nil _, rfl, hcap, fun _ => rfl, nofun⟩
    exact (exec_of_startsPulse hready hi (encLoop_canonical rfl rfl hall)).trans
      (congrArg Host.Outcome.next (State.completed_fresh ({ s with encRes := d }.setPending true) ..))
  · obtain ⟨k, u, hk, hfits, hnext, hover⟩ := exists_first_misfit (Nat.not_le.1 hcap)
    have hsplit := canonicalBytes_rest hk s.status.ovfMark
    have hlen := flatten_replicate_length s.status.version k
    have hescapes := hasRoom_escapes hk hfits hroom hsink
    have hstop : encUnit u ((s.startPulse d).escaped k) = .done ((s.startPulse d).escaped k).encStop :=
      encUnit_of_overCapacity (by rw [State.startPulse_escaped_encCount hfits]; exact hover)
    have hrest : (BitVec.ofNat 32 (d.toNat - k * escapeCycles s.status.version)).toNat =
        d.toNat - k * escapeCycles s.status.version :=
      Nat.mod_eq_of_lt ((Nat.sub_le ..).trans_lt d.isLt)
    refine ⟨(List.replicate k (escapeBytes s.status.version)).flatten, k,
      BitVec.ofNat 32 (d.toNat - k * escapeCycles s.status.version), true,
      escapedMark s.status.version k s.status.ovfMark, ?_, ?_, ?_, by rwa [hlen], nofun,
      fun _ => ⟨u, by rwa [hrest], by rwa [hlen]⟩⟩
    · rw [exec_of_done_after hready hi hk hnext (fun _ => hescapes) hstop, State.startPulse_escaped hk]
      rfl
    · rw [hrest]; exact hsplit
    · rw [hrest]; exact canonicalMark_rest hk s.status.ovfMark

end Sys2Proof.Machine
end

section
/-! What the encoder commands leave of the stream (O36; R165, R179, R181, R184): bytes are only appended, all of them
counted, and version 0 has no marker. -/

namespace Sys2Proof.Machine

/-- t's image is that of s with bytes appended, `OUT_COUNT` counts them, and version 0 left the marker (R16, R36,
R53). -/
structure EncExtends (s t : State) : Prop where
  counts : CountsImage t
  image : ∃ bs, t.outImg = s.outImg.append bs
  version : t.status.version = s.status.version
  mark : s.status.version = 0 → t.status.ovfMark = s.status.ovfMark

/-- A change of other fields than these extends the stream by nothing. -/
theorem EncExtends.of_same {s t : State} (h : CountsImage s) (himg : t.outImg = s.outImg)
    (hcount : t.outCount = s.outCount) (hver : t.status.version = s.status.version)
    (hmark : s.status.version = 0 → t.status.ovfMark = s.status.ovfMark) : EncExtends s t where
  counts := by rw [CountsImage, himg, hcount]; exact h
  image := ⟨[], himg⟩
  version := hver
  mark := hmark

theorem EncExtends.trans {s t u : State} (h : EncExtends s t) (h' : EncExtends t u) : EncExtends s u := by
  obtain ⟨-, ⟨bs, himg⟩, hver, hmark⟩ := h
  obtain ⟨hcounts, ⟨bs', himg'⟩, hver', hmark'⟩ := h'
  exact ⟨hcounts, ⟨bs ++ bs', by rw [himg', himg, Memory.append_append]⟩, hver'.trans hver,
    fun h0 => (hmark' (hver.trans h0)).trans (hmark h0)⟩

/-- Version 0 owes no extended record: from 2048 on it owes an escape (R173, R174). -/
theorem version_ne_zero_of_encNext_ext {ver : BitVec 2} {d : Nat} {mark : Bool} {v : Value24}
    (h : encNext ver d mark = some (.ext v)) : ver ≠ 0 := by
  rintro rfl
  by_cases hunit : 2048 ≤ d
  · rw [encNext_of_escapeCycles_le mark hunit] at h; cases h
  · have hext : ¬ (2048 ≤ d ∨ d = 0 ∧ (0 : BitVec 2) ≠ 0 ∧ mark = true) := by tauto
    rw [encNext, if_neg (show ¬ overflowUnit 0 ≤ d from hunit), if_neg hext] at h
    split_ifs at h
    cases h

section
variable {u : RecUnit} {s t : State}

theorem encAccount_extends (h : CountsImage s) (hver : ∀ v, u = .ext v → s.status.version ≠ 0) :
    (encAccount u s).Meets (EncExtends s) (EncExtends s) := by
  cases u with
  | short b => exact .of_same h rfl rfl rfl fun _ => rfl
  | zero => exact .of_same h rfl rfl rfl fun _ => rfl
  | ext v =>
    rw [encAccount]
    split_ifs
    · exact .of_same h rfl rfl rfl fun h0 => absurd h0 (hver v rfl)
    · exact .of_same h rfl rfl rfl fun h0 => absurd h0 (hver v rfl)

theorem encUnit_extends (h : CountsImage s) (hver : ∀ v, u = .ext v → s.status.version ≠ 0) :
    (encUnit u s).Meets (EncExtends s) (EncExtends s) := by
  obtain ⟨-, he⟩ | ⟨-, -, he⟩ | ⟨-, hmax, ⟨f, -, he⟩ | ⟨t, hw, he⟩ | ⟨t, hw, he⟩⟩ := encUnit_cases u s
  · rw [he]; exact .of_same h rfl rfl rfl fun _ => rfl
  · rw [he]; exact .of_same h rfl rfl rfl fun _ => rfl
  · rw [he]; trivial
  · rw [he]
    obtain ⟨-, rfl⟩ | ⟨hok, -⟩ | ⟨hok, -⟩ := memWrite_cases hw
    · exact .of_same h rfl rfl rfl fun _ => rfl
    · cases hok
    · cases hok
  · rw [he]
    obtain ⟨hok, -⟩ | ⟨-, -, rfl⟩ | ⟨-, hne, -⟩ := memWrite_cases hw
    · cases hok
    · have hemit : EncExtends s (s.emit (encodeUnit u) 1) :=
        ⟨countsImage_append h hmax, ⟨_, rfl⟩, rfl, fun _ => rfl⟩
      exact (encAccount_extends hemit.counts hver).imp (fun _ => hemit.trans) (fun _ => hemit.trans)
    · exact absurd h hne

theorem encTurn_extends (h : CountsImage s) : (encTurn s).Meets (EncExtends s) (EncExtends s) := by
  obtain ⟨-, he⟩ | ⟨u, howed, he⟩ := encTurn_cases s
  · rw [he]; exact .of_same h rfl rfl rfl fun _ => rfl
  · rw [he]
    exact encUnit_extends h fun v hv => version_ne_zero_of_encNext_ext (howed.trans (congrArg _ hv))

theorem encStep_extends (h : CountsImage s) (ht : encStep s = .next t) : EncExtends s t :=
  have hstart : EncExtends s { s with encCount := 0 } := .of_same h rfl rfl rfl fun _ => rfl
  have hturn (u : State) (hu : EncExtends s u) : (encTurn u).Meets (EncExtends s) (EncExtends s) :=
    (encTurn_extends hu.counts).imp (fun _ => hu.trans) (fun _ => hu.trans)
  (encLoop_meets hturn _ hstart).of_out ht

/-- An encoder command extends the stream if its work past the gate does. -/
theorem pulseGate_extends {home : StreamState} {work : State → Out} (h : CountsImage s)
    (hwork : work s = .next t → EncExtends s t) (ht : pulseGate home work s = .next t) : EncExtends s t :=
  pulseGate_relates (fun _ => .of_same h rfl rfl rfl fun _ => rfl) (.of_same h rfl rfl rfl fun _ => rfl) hwork ht

theorem execEncPulse_extends (h : CountsImage s) (ht : execEncPulse s = .next t) : EncExtends s t := by
  refine pulseGate_extends h (fun hwork => ?_) ht
  split_ifs at hwork
  · cases hwork; exact .of_same h rfl rfl rfl fun _ => rfl
  · have hload : EncExtends s s.loadPulse := .of_same h rfl rfl rfl fun _ => rfl
    exact hload.trans (encStep_extends hload.counts hwork)

theorem execEncDrain_extends (h : CountsImage s) (ht : execEncDrain s = .next t) : EncExtends s t := by
  refine pulseGate_extends h (fun hwork => ?_) ht
  split_ifs at hwork
  · exact encStep_extends h hwork
  · cases hwork; exact .of_same h rfl rfl rfl fun _ => rfl

end

/-- Settles O36: the registers by what the commands write at all, the image by how they extend it. -/
theorem encoderFrame : Obligations.EncoderFrame := by
  intro s t i hi hcount hwf ht
  have hboth : EncWrites s t ∧ EncExtends s t := by
    obtain rfl | rfl := hi
    · exact ⟨execEncPulse_writes ht, execEncPulse_extends hcount ht⟩
    · exact ⟨execEncDrain_writes ht, execEncDrain_extends hcount ht⟩
  obtain ⟨hwrites, hcounts, ⟨bs, himg⟩, -, hmark⟩ := hboth
  refine ⟨?_, fun a ha => ?_, hcounts, ?_, hmark⟩
  · obtain ⟨_, _, _, _, _, _, _, _, _, _, _, _, _, -, rfl⟩ := hwrites
    rfl
  · rw [himg, Memory.byte?_append bs hwf, if_pos ha]
  · rw [himg]; exact Memory.append_wf bs hwf

end Sys2Proof.Machine
end

section
/-! The scaler (O48 to O52; R190 to R202): rounded division is the one integer inside its two bounds; each
conversion is that division of one exact product, and a conversion that succeeds fits in the word it leaves. -/

namespace Sys2Proof.Machine

/-! ## Rounded division -/

/-- The nearest integer, an exact half rounded up (R197), is determined by its bounds. -/
theorem roundDiv_eq_iff {n d q : Nat} (hd : 1 ≤ d) :
    roundDiv n d = q ↔ 2 * n < 2 * d * q + d ∧ 2 * d * q ≤ 2 * n + d := by
  have hfloor : roundDiv n d = q ↔ d * q ≤ n + d / 2 ∧ n + d / 2 < d * q + d := by
    rw [roundDiv, Nat.div_eq_iff hd, Nat.mul_comm q d]
    omega
  rw [hfloor, Nat.mul_assoc]
  omega

theorem roundDiv_mono {n n' : Nat} (h : n ≤ n') (d : Nat) : roundDiv n d ≤ roundDiv n' d :=
  Nat.div_le_div_right (Nat.add_le_add_right h _)

theorem roundDiv_zero {d : Nat} (hd : 1 ≤ d) : roundDiv 0 d = 0 :=
  (roundDiv_eq_iff hd).2 (by omega)

theorem roundDiv_mul_self (x : Nat) {d : Nat} (hd : 1 ≤ d) : roundDiv (x * d) d = x := by
  rw [roundDiv_eq_iff hd, Nat.mul_assoc, Nat.mul_comm d x]
  omega

/-- Scaling up by `c / r` and back down loses nothing (R202): the first rounding is off by at most r / 2, which the
second one's c / 2 covers. Only at `r = c` could both be exact halves, and there neither rounds at all. -/
theorem roundDiv_roundDiv_mul (x : Nat) {r c : Nat} (hr : 1 ≤ r) (hrc : r ≤ c) :
    roundDiv (roundDiv (x * c) r * r) c = x := by
  obtain rfl | hlt := hrc.eq_or_lt
  · rw [roundDiv_mul_self x hr, roundDiv_mul_self x hr]
  · obtain ⟨hlow, hhigh⟩ := (roundDiv_eq_iff (n := x * c) hr).1 rfl
    rw [roundDiv_eq_iff (by omega), Nat.mul_assoc, Nat.mul_comm c x, Nat.mul_comm _ r]
    rw [Nat.mul_assoc] at hlow hhigh
    omega

/-- Settles O50. -/
theorem roundedDivisionIsNearestWithHalfUp : Obligations.RoundedDivisionIsNearestWithHalfUp :=
  fun _ _ hd => ⟨rfl, (roundDiv_eq_iff hd).1 rfl⟩

/-! ## The conversions -/

/-- A conversion with a divisor, whole (R196, R200, R201). -/
theorem scaleBy_eq {m d : Word} {s : State} (hd : s.status.scalerReady = true → 1 ≤ d.toNat) :
    scaleBy m d s =
      if s.status.scalerReady = false then .next (s.finish .invalidArguments)
      else if wordMax < roundDiv (s.arg0.toNat * m.toNat) d.toNat then
        .next (s.raiseFault.finish .genericFailure)
      else .next ({ s with
        res0 := BitVec.ofNat 32 (roundDiv (s.arg0.toNat * m.toNat) d.toNat) }.finish .ok) := by
  obtain ⟨hready, he⟩ | ⟨hready, rfl, -⟩ | ⟨hready, -, hq, he⟩ | ⟨hready, -, hq, he⟩ := scaleBy_cases m d s
  · rw [he, if_pos hready]
  · exact absurd (hd hready) (by decide)
  · rw [he, if_neg (by simp [hready]), if_pos hq]
  · rw [he, if_neg (by simp [hready]), if_neg (Nat.not_lt.2 hq)]

/-- What a conversion that ended with Ok says of its operands and of the state it left. -/
theorem scaleBy_ok {m d : Word} {s t : State} (ht : scaleBy m d s = .next t) (hok : t.status.result = .ok) :
    s.status.scalerReady = true ∧ 1 ≤ d.toNat ∧ ∃ y : Word,
      t = { s with res0 := y }.finish .ok ∧ y.toNat = roundDiv (s.arg0.toNat * m.toNat) d.toNat := by
  obtain ⟨-, he⟩ | ⟨-, -, he⟩ | ⟨-, -, -, he⟩ | ⟨hready, hd, hq, he⟩ := scaleBy_cases m d s
  · cases he.symm.trans ht; cases hok
  · cases he.symm.trans ht
  · cases he.symm.trans ht; cases hok
  · cases he.symm.trans ht
    exact ⟨hready, one_le_toNat_of_ne_zero hd, _, rfl, Nat.mod_eq_of_lt (Nat.lt_succ_of_le hq)⟩

/-- A conversion whose quotient is the value of a word answers that word. -/
theorem scaleBy_of_roundDiv_eq {m d y : Word} {s : State} (hready : s.status.scalerReady = true)
    (hd : 1 ≤ d.toNat) (hq : roundDiv (s.arg0.toNat * m.toNat) d.toNat = y.toNat) :
    scaleBy m d s = .next ({ s with res0 := y }.finish .ok) := by
  have hfits : ¬ wordMax < y.toNat := Nat.not_lt.2 (Nat.le_of_lt_succ y.isLt)
  rw [scaleBy_eq fun _ => hd, if_neg (by simp [hready]), hq, if_neg hfits, BitVec.ofNat_toNat, BitVec.setWidth_eq]

theorem scaleBy_monotonic {m d x : Word} {s t t' : State}
    (ht : scaleBy m d s = .next t) (hok : t.status.result = .ok)
    (ht' : scaleBy m d { s with arg0 := x } = .next t') (hok' : t'.status.result = .ok) :
    (s.arg0.toNat ≤ x.toNat → t.res0.toNat ≤ t'.res0.toNat) ∧ (s.arg0 = 0 → t.res0 = 0) := by
  obtain ⟨-, hd, y, rfl, hy⟩ := scaleBy_ok ht hok
  obtain ⟨-, -, y', rfl, hy'⟩ := scaleBy_ok ht' hok'
  refine ⟨fun hle => ?_, fun hzero => BitVec.eq_of_toNat_eq (hy.trans ?_)⟩
  · show y.toNat ≤ y'.toNat
    rw [hy, hy']
    exact roundDiv_mono (Nat.mul_le_mul_right _ hle) _
  · rw [hzero]
    exact (congrArg (roundDiv · d.toNat) (Nat.zero_mul _)).trans (roundDiv_zero hd)

/-- Settles O49. -/
theorem scalerConvertsByTheExactRatio : Obligations.ScalerConvertsByTheExactRatio := by
  intro s i m d hi hd
  obtain ⟨rfl, rfl, rfl⟩ | ⟨rfl, rfl, rfl⟩ := hi
  · exact scaleBy_eq hd
  · exact scaleBy_eq hd

/-- Settles O51: the quotient of the second conversion is the samples the first one took. -/
theorem samplesSurviveTheRoundTripThroughCycles : Obligations.SamplesSurviveTheRoundTripThroughCycles := by
  intro s t hready hrate hle ht hok
  obtain ⟨-, -, y, rfl, hy⟩ := scaleBy_ok ht hok
  have hback : roundDiv (y.toNat * s.scaleRate.toNat) s.scaleClock.toNat = s.arg0.toNat := by
    rw [hy, roundDiv_roundDiv_mul _ hrate hle]
  exact ⟨_, scaleBy_of_roundDiv_eq hready (hrate.trans hle) hback, rfl, rfl⟩

/-- Settles O52. -/
theorem conversionsAreMonotonic : Obligations.ConversionsAreMonotonic := by
  intro s t t' x i hi ht hok ht' hok'
  obtain rfl | rfl := hi
  · exact scaleBy_monotonic ht hok ht' hok'
  · exact scaleBy_monotonic ht hok ht' hok'

/-! ## SCALE_CFG -/

/-- `SCALE_SEL` over the configuration word's value (R46, R193). -/
theorem scaleSelOf_eq (w : Word) :
    scaleSelOf w = BitVec.ofNat 32 (w.toNat / 4 % 4 + 4 * (w.toNat / 16 % 2)) := by
  have hvid : (BitVec.ofBool (cfgVid w)).toNat = w.toNat / 16 % 2 := by
    rw [cfgVid_eq]
    obtain h | h := Nat.mod_two_eq_zero_or_one (w.toNat / 16) <;> simp [h]
  apply BitVec.eq_of_toNat_eq
  rw [scaleSelOf, BitVec.toNat_append, ← Nat.shiftLeft_add_eq_or_of_lt (cfgMach w).isLt, BitVec.toNat_append,
    hvid, cfgMach_toNat]
  simp only [BitVec.ofNat_eq_ofNat, BitVec.toNat_ofNat, Nat.zero_mod, Nat.zero_shiftLeft, Nat.zero_or]
  omega

/-- The table's clock over the configuration word's value (R9, R193). -/
theorem clockRate_cfg (p : Params) (w : Word) :
    clockRate p (cfgMach w) (cfgVid w) =
      if w.toNat / 4 % 4 = 0 then (if w.toNat / 16 % 2 = 0 then p.clockC64Pal else p.clockC64Ntsc)
      else if w.toNat / 4 % 4 = 1 then (if w.toNat / 16 % 2 = 0 then p.clockVicPal else p.clockVicNtsc)
      else (if w.toNat / 16 % 2 = 0 then p.clockC16Pal else p.clockC16Ntsc) := by
  have hmach (m : BitVec 2) : cfgMach w = m ↔ w.toNat / 4 % 4 = m.toNat := by
    rw [← cfgMach_toNat, BitVec.toNat_inj]
  simp only [clockRate, hmach, cfgVid_eq]
  obtain h | h := Nat.mod_two_eq_zero_or_one (w.toNat / 16) <;> simp [h]

/-- SCALE_CFG by its two refusals (R193). -/
theorem execScaleCfg_eq (s : State) :
    execScaleCfg s =
      if ¬ CfgLegal s.arg0 ∨ s.arg1 = 0 then .next (s.finish .invalidArguments) else .next s.latchScale := by
  simp only [execScaleCfg, ended, ← cfgValid_iff]
  cases cfgValid s.arg0 with
  | false => simp
  | true => simp

/-- Settles O48. -/
theorem scaleCfgFollowsItsRule : Obligations.ScaleCfgFollowsItsRule := by
  intro s
  show execScaleCfg s = _
  rw [execScaleCfg_eq, State.latchScale, scaleSelOf_eq, clockRate_cfg]
  rfl

end Sys2Proof.Machine
end

section
/-! The codes each command ends with (O58; R213, R216), and what a held stream does under each command (O60; R224,
R225). -/

namespace Sys2Proof.Machine

/-! ## Ending with one of some codes -/

/-- The command that led to t ended with one of these codes (R210). -/
def EndsIn (codes : List ResultCode) (t : State) : Prop := t.status.result ∈ codes

/-- What the checks before a pulse command's work can end with (R219, steps 2 and 4). -/
def gateCodes : List ResultCode := [.interrupted, .invalidArguments, .genericFailure]

/-- What the work of REC_DECODE can end with (R148). -/
def decCodes : List ResultCode := [.ok, .endOfStream, .genericFailure]

/-- What `EncStep` can end with (R170). -/
def encCodes : List ResultCode := [.ok, .genericFailure, .backendError]

section
variable {codes codes' : List ResultCode} {s t : State}

theorem EndsIn.finish {c : ResultCode} (h : c ∈ codes) : EndsIn codes (s.finish c) := h

theorem EndsIn.mono (hsub : codes ⊆ codes') (h : EndsIn codes t) : EndsIn codes' t := hsub h

/-- A turn that ends only in states of one kind keeps what else is known of where it goes on. -/
theorem Micro.Meets.with_last {under under' last last' : State → Prop} {m : Micro} (h : m.Meets under last)
    (h' : m.Meets under' last') : m.Meets under last' := by
  cases m with
  | more s => exact h
  | done s => exact h'
  | stop f => trivial

/-- A pulse command ends with a code of its checks or with one of its work. -/
theorem pulseGate_endsIn {home : StreamState} {work : State → Out} (hgate : gateCodes ⊆ codes)
    (hwork : work s = .next t → EndsIn codes t) (ht : pulseGate home work s = .next t) : EndsIn codes t := by
  obtain ⟨-, he⟩ | ⟨-, he⟩ | ⟨-, -, -, he⟩ | ⟨-, -, he⟩ | ⟨-, -, he⟩ := pulseGate_cases ht
  · cases he; exact .finish (hgate (by decide))
  · cases he; exact .finish (hgate (by decide))
  · cases he; exact .finish (hgate (by decide))
  · cases he; exact EndsIn.finish (s := s.enter .interrupted) (hgate (by decide))
  · exact hwork he.symm

end

/-! ## REC_DECODE -/

theorem State.decoded_endsIn (cycles : Word) (form : Nat) (s : State) : EndsIn decCodes (s.decoded cycles form) :=
  .finish (by decide)

theorem State.endOfInput_endsIn (s : State) : EndsIn decCodes s.endOfInput := .finish (by decide)

theorem decUnit_endsIn (u : RecUnit) (s : State) : (decUnit u s).Meets (fun _ => True) (EndsIn decCodes) := by
  cases u with
  | short b =>
    unfold decUnit decShort
    split_ifs
    · exact State.decoded_endsIn _ _ _
    · exact State.decoded_endsIn _ _ _
    · exact State.decoded_endsIn _ _ _
  | zero =>
    rw [decUnit]
    obtain ⟨-, he⟩ | ⟨-, -, he⟩ | ⟨-, -, he⟩ := decZero_cases s
    · rw [he]; trivial
    · rw [he]; exact EndsIn.finish (by decide)
    · rw [he]; trivial
  | ext v => exact EndsIn.finish (by decide)

theorem decTurn_endsIn (s : State) : (decTurn s).Meets (fun _ => True) (EndsIn decCodes) := by
  obtain ⟨-, he⟩ | ⟨-, u, -, he⟩ | ⟨-, -, he⟩ | ⟨-, -, he⟩ := decTurn_cases s
  · rw [he]; trivial
  · rw [he]; exact decUnit_endsIn u s
  · rw [he]; exact State.endOfInput_endsIn _
  · rw [he]; exact State.endOfInput_endsIn s

theorem decRecord_endsIn {s t : State} (hlen : s.inImg.len ≤ wordMax) (ht : decRecord s = .next t) :
    EndsIn decCodes t :=
  (Micro.loop_ends (fun _ _ => rfl) (fun u hu => (decTurn_notRefused hu).with_last (decTurn_endsIn u)) _
    (s := s.beginRecord) hlen (Nat.lt_succ_self _)).last_of_out ht

/-! ## ENC_PULSE and ENC_DRAIN -/

theorem State.encReport_endsIn {c : ResultCode} (h : c ∈ encCodes) (s : State) : EndsIn encCodes (s.encReport c) := h

theorem encAccount_endsIn (u : RecUnit) (s : State) :
    (encAccount u s).Meets (fun _ => True) (EndsIn encCodes) := by
  cases u with
  | short b => exact State.encReport_endsIn (by decide) _
  | zero => trivial
  | ext v =>
    rw [encAccount]
    split_ifs
    · trivial
    · exact State.encReport_endsIn (by decide) _

theorem encTurn_endsIn (s : State) : (encTurn s).Meets (fun _ => True) (EndsIn encCodes) := by
  obtain ⟨-, he⟩ | ⟨u, -, he⟩ := encTurn_cases s
  · rw [he]; exact State.encReport_endsIn (by decide) _
  · rw [he]
    obtain ⟨-, he⟩ | ⟨-, -, he⟩ | ⟨-, -, ⟨f, -, he⟩ | ⟨t, -, he⟩ | ⟨t, -, he⟩⟩ := encUnit_cases u s
    · rw [he]; exact State.encReport_endsIn (by decide) _
    · rw [he]; exact State.encReport_endsIn (by decide) _
    · rw [he]; trivial
    · rw [he]; exact State.encReport_endsIn (by decide) _
    · rw [he]; exact encAccount_endsIn u _

theorem encStep_endsIn {s t : State} (ht : encStep s = .next t) : EndsIn encCodes t :=
  (Micro.loop_ends (fun _ _ => rfl) (fun u _ => (encTurn_notRefused u).with_last (encTurn_endsIn u)) _
    (s := { s with encCount := 0 }) trivial (Nat.lt_succ_self _)).last_of_out ht

/-! ## The table of R216 -/

section
variable {s t : State}

theorem execOpenRead_endsIn (ht : execOpenRead s = .next t) :
    EndsIn [.ok, .invalidArguments, .wrongContainerFormat] t := by
  obtain ⟨-, -, rfl⟩ | ⟨-, -, rfl⟩ | ⟨-, -, -, rfl⟩ | ⟨-, -, hd, -, rfl⟩ := execOpenRead_cases ht
  · exact .finish (by decide)
  · exact .finish (by decide)
  · exact EndsIn.finish (by decide)
  · exact EndsIn.finish (by decide)

theorem execOpenWrite_endsIn (ht : execOpenWrite s = .next t) :
    EndsIn [.ok, .invalidArguments, .backendError] t := by
  obtain ⟨-, -, rfl⟩ | ⟨-, -, rfl⟩ | ⟨-, -, rfl⟩ | ⟨-, -, rfl⟩ := execOpenWrite_cases ht
  · exact .finish (by decide)
  · exact .finish (by decide)
  · exact .finish (by decide)
  · exact EndsIn.finish (by decide)

theorem execClose_endsIn (ht : execClose s = .next t) : EndsIn [.ok, .invalidArguments, .backendError] t := by
  obtain ⟨-, rfl⟩ | ⟨-, -, rfl⟩ | ⟨-, -, ok, u, -, rfl⟩ := execClose_cases ht
  · exact .finish (by decide)
  · exact .finish (by decide)
  · exact .finish (by cases ok <;> decide)

theorem execRecDecode_endsIn (hlen : s.inImg.len ≤ wordMax) (ht : execRecDecode s = .next t) :
    EndsIn [.ok, .endOfStream, .interrupted, .invalidArguments, .genericFailure] t :=
  pulseGate_endsIn (by decide) (fun hwork => (decRecord_endsIn hlen hwork).mono (by decide)) ht

theorem execEncPulse_endsIn (ht : execEncPulse s = .next t) :
    EndsIn [.ok, .interrupted, .invalidArguments, .genericFailure, .backendError] t := by
  refine pulseGate_endsIn (by decide) (fun hwork => ?_) ht
  split_ifs at hwork
  · cases hwork; exact .finish (by decide)
  · exact (encStep_endsIn hwork).mono (by decide)

theorem execEncDrain_endsIn (ht : execEncDrain s = .next t) :
    EndsIn [.ok, .interrupted, .invalidArguments, .genericFailure, .backendError] t := by
  refine pulseGate_endsIn (by decide) (fun hwork => ?_) ht
  split_ifs at hwork
  · exact (encStep_endsIn hwork).mono (by decide)
  · cases hwork; exact .finish (by decide)

theorem execScaleCfg_endsIn (ht : execScaleCfg s = .next t) : EndsIn [.ok, .invalidArguments] t := by
  rw [execScaleCfg_eq] at ht
  split_ifs at ht
  · cases ht; exact .finish (by decide)
  · cases ht; exact EndsIn.finish (by decide)

theorem scaleBy_endsIn {m d : Word} (ht : scaleBy m d s = .next t) :
    EndsIn [.ok, .invalidArguments, .genericFailure] t := by
  obtain ⟨-, he⟩ | ⟨-, -, he⟩ | ⟨-, -, -, he⟩ | ⟨-, -, -, he⟩ := scaleBy_cases m d s
  · cases he.symm.trans ht; exact .finish (by decide)
  · cases he.symm.trans ht
  · cases he.symm.trans ht; exact .finish (by decide)
  · cases he.symm.trans ht; exact .finish (by decide)

end

/-- Settles O58, one row of R216's table after the other. -/
theorem commandsEndOnlyWithTheirCodes : Obligations.CommandsEndOnlyWithTheirCodes := by
  intro s t i hinv ht
  refine ⟨?openRead, ?openWriteOrClose, ?recDecode, ?encoder, ?scaleCfg, ?scale, ?reset, ?illegal⟩
  case openRead => rintro rfl; exact execOpenRead_endsIn ht
  case openWriteOrClose =>
    rintro (rfl | rfl)
    · exact execOpenWrite_endsIn ht
    · exact execClose_endsIn ht
  case recDecode => rintro rfl; exact execRecDecode_endsIn hinv.inBound ht
  case encoder =>
    rintro (rfl | rfl)
    · exact execEncPulse_endsIn ht
    · exact execEncDrain_endsIn ht
  case scaleCfg => rintro rfl; exact execScaleCfg_endsIn ht
  case scale => rintro (rfl | rfl) <;> exact scaleBy_endsIn ht
  case reset => rintro rfl; cases ht; rfl
  case illegal => rintro w rfl; cases ht; rfl

/-! ## Held streams -/

/-- In INTERRUPTED and in ERROR the pulse commands end at their first checks (R224, R225). -/
theorem exec_pulse_of_held {s : State} {i : Instr} (hs : s.status.state = .interrupted ∨ s.status.state = .error)
    (hi : i ∈ [Instr.recDecode, .encPulse, .encDrain]) : ∃ c, exec i s = .next (s.finish c) := by
  obtain ⟨-, hint, herr, -⟩ := stateTableRefusesByResult s
  obtain hs | hs := hs
  · exact ⟨_, hint hs i hi⟩
  · exact ⟨_, herr hs i hi⟩

/-- A held stream is not one that may be opened (R115). -/
theorem not_mayOpen_of_held {s : State} (hs : s.status.state = .interrupted ∨ s.status.state = .error) :
    ¬ MayOpen s := by
  obtain hs | hs := hs <;> simp [MayOpen, hs]

/-- CLOSE of an open or held stream goes to CLOSED, whether or not its patch succeeds (R131, R133). -/
theorem execClose_state {s t : State} (hs : ¬ MayOpen s) (ht : execClose s = .next t) :
    t.status.state = .closed := by
  obtain ⟨hopen, -⟩ | ⟨-, -, rfl⟩ | ⟨-, -, ok, u, hw, rfl⟩ := execClose_cases ht
  · exact absurd hopen hs
  · rfl
  · obtain ⟨img, draws, drawn, rfl⟩ := memWrite_writes hw
    rfl

/-- Settles O60. The OPEN commands and the pulse commands are refused by the state table, and the others but CLOSE
and RESET do not write `STATUS.STATE`. -/
theorem heldStreamsLeaveOnlyByCloseOrReset : Obligations.HeldStreamsLeaveOnlyByCloseOrReset := by
  intro s t i hs hi ht
  have hopen : ¬ MayOpen s := not_mayOpen_of_held hs
  refine ⟨fun hclose hreset => ?_, ?_, ?_⟩
  · by_cases hgate : i ∈ [Instr.openRead, .openWrite]
    · obtain ⟨hrefused, -⟩ := stateTableRefusesByResult s
      have he := hrefused (fun h => hopen (.inl h)) (fun h => hopen (.inr h)) i hgate
      cases he.symm.trans ht; rfl
    by_cases hpulse : i ∈ [Instr.recDecode, .encPulse, .encDrain]
    · obtain ⟨c, he⟩ := exec_pulse_of_held hs hpulse
      cases he.symm.trans ht; rfl
    obtain ⟨-, -, -, -, -, -, -, -, -, -, hstate, -⟩ := onlyTheNamedCommandsWriteEachRegister s t i hi ht
    simp only [List.mem_cons, List.not_mem_nil, or_false, not_or] at hgate hpulse
    exact hstate (by simp [hgate, hpulse, hclose, hreset])
  · rintro rfl; exact execClose_state hopen ht
  · rintro rfl; cases ht; rfl

end Sys2Proof.Machine
end
